-- ==== Sys2Proof/Word.lean ====
section
/-! DEFINITION. The word types of the block (spec/00_scope.md R9, R13). Bit 0 is the least significant bit.
Every width is a parameter the source fixes (R9, R10); nothing here is configurable. -/

namespace Sys2Proof

/-- The 64-bit command word of spec/30_encoding.md R81. -/
abbrev CmdWord := BitVec 64
/-- A 32-bit pattern: an operand, a result, a logged value, a cached block (R9: `VA_OPERAND_BITS`, `PA_OPERAND_BITS`, `BLOCK_BYTES`). -/
abbrev Word32 := BitVec 32
/-- One byte of a block. -/
abbrev Byte := BitVec 8
/-- A virtual page number (R9: `VPN_BITS` = 9). -/
abbrev Vpn := BitVec 9
/-- A virtual page offset (R9: `PAGE_OFFSET_BITS` = 9). -/
abbrev Vpo := BitVec 9
/-- A physical page number (R9: `PPN_BITS` = 13). -/
abbrev Ppn := BitVec 13
/-- An index into the TLB (R9: `TLB_INDEX_BITS` = 4). -/
abbrev TlbIndex := BitVec 4
/-- The tag of a TLB entry (R9: `TLB_TAG_BITS` = 5). -/
abbrev TlbTag := BitVec 5
/-- The tag of a cache way (R9: `CACHE_TAG_BITS` = 13). -/
abbrev CacheTag := BitVec 13
/-- An index of a cache line (R9: `CACHE_INDEX_BITS` = 5). -/
abbrev LineIndex := BitVec 5
/-- The offset of a byte in a block (R9: `CACHE_OFFSET_BITS` = 2). -/
abbrev ByteOffset := BitVec 2
/-- The number of a way of a line (R9: `CACHE_WAYS` = 2), and so what `older` holds. -/
abbrev WayNo := BitVec 1

end Sys2Proof
end

