-- ==== Sys2Proof/Config.lean ====
section
/-! DEFINITION. The free values: what a collaborator answers when the host has lined up no answer at its port
(notes/assumptions/3.md). The geometry is no configuration: spec/00_scope.md R9 and R10 fix it. -/

namespace Sys2Proof

/-- DESIGN CHOICE (log entry 3), safe. FREE VALUE: the frame allocator's answer to the collaborator call number `n` of
the run, made for the page `vpn`. spec/30_encoding.md R88: "The answer is a draw: any 13-bit value". -/
opaque Config.freeFrame (n : Nat) (vpn : Vpn) : Ppn

/-- DESIGN CHOICE (log entries 3 and 4), safe. FREE VALUE: the word fetcher's answer to the collaborator call number `n`
of the run, for the aligned word at byte address `wordAddr` (spec/30_encoding.md R89, spec/20_memory.md R58). -/
opaque Config.freeWord (n : Nat) (wordAddr : Word32) : Word32

end Sys2Proof
end

