-- ==== Sys2Proof/Syntax.lean ====
section
/-! DEFINITION. The instructions: one constructor for each row of spec/opcode_table.json. -/

namespace Sys2Proof

/-- The commands of spec/30_encoding.md R82. An operand is the whole 32-bit operand field (R83). -/
inductive Instr where
  /-- INIT: `initialize()`, spec/43_control.md R160. -/
  | init
  /-- XLATE: `get_physical_address(va)`, spec/41_translate.md R100. -/
  | xlate (va : Word32)
  /-- FETCHB: `get_byte(pa)`, spec/42_cache.md R130. -/
  | fetchb (pa : Word32)
deriving DecidableEq, Repr

/-- Whether a command is a query: XLATE or FETCHB, the two that need INIT first (spec/10_state.md R30). -/
def Instr.isQuery : Instr → Bool
  | .init => false
  | .xlate _ => true
  | .fetchb _ => true

end Sys2Proof
end

