-- ==== Sys2Proof/WellFormed.lean ====
section
/-! DEFINITION. Which command words spell a command, read from the match and mask columns of spec/opcode_table.json
(spec/30_encoding.md R84, R85). The decoder of Sys2Proof/Decode.lean reads fields instead, so that the two can be held
against each other.

Every term of `Instr` is well formed: an operand is any 32-bit pattern (R83) and there is no other field. So a claim
about "every well-formed instruction" is a claim about every instruction, and the checks below are checks of words. -/

namespace Sys2Proof

/-- Check 1 of R84: the opcode byte (bits 63:56) is one of 0x00, 0x01, 0x02. -/
def CmdWord.opKnown (w : CmdWord) : Bool := decide (w >>> 56 < 3)

/-- Check 2 of R84: the reserved field (bits 55:32) is zero. -/
def CmdWord.rsvZero (w : CmdWord) : Bool := decide (w &&& 0x00FFFFFF00000000 = 0)

/-- Check 3 of R84: a word with opcode 0x00 has a zero operand. -/
def CmdWord.initOperandZero (w : CmdWord) : Bool := decide (w >>> 56 = 0 → w &&& 0x00000000FFFFFFFF = 0)

/-- The three checks together: the word is not an illegal encoding of R84. -/
def CmdWord.wellFormed (w : CmdWord) : Bool := w.opKnown && w.rsvZero && w.initOperandZero

/-- The mask of a row of spec/opcode_table.json, for the row of the given command. -/
def Instr.mask : Instr → CmdWord
  | .init => 0xFFFFFFFFFFFFFFFF
  | .xlate _ => 0xFFFFFFFF00000000
  | .fetchb _ => 0xFFFFFFFF00000000

/-- The match of a row of spec/opcode_table.json, for the row of the given command. -/
def Instr.pattern : Instr → CmdWord
  | .init => 0x0000000000000000
  | .xlate _ => 0x0100000000000000
  | .fetchb _ => 0x0200000000000000

end Sys2Proof
end

