-- ==== Sys2Proof/Decode.lean ====
section
/-! DEFINITION. The decoder of command words, total on all 64-bit words, and after it the encoder
(spec/30_encoding.md R81-R85). -/

namespace Sys2Proof

/-- Why a word spells no command (R84). The block records the same model fault, `IllegalCommand`, for each. -/
inductive IllegalWord where
  /-- `op` is 0x03-0xFF. -/
  | unknownOpcode
  /-- `rsv` is nonzero. -/
  | reservedNonzero
  /-- `op` is 0x00 and the operand is nonzero. -/
  | initOperandNonzero
deriving DecidableEq, Repr

/-- What a word decodes to: one command, or illegal, by name (R85). -/
inductive Decoded where
  | instr (i : Instr)
  | illegal (why : IllegalWord)
deriving DecidableEq, Repr

/-- The field `op` = cmd[63:56] (R81). -/
def CmdWord.op (w : CmdWord) : BitVec 8 := w.extractLsb' 56 8
/-- The field `rsv` = cmd[55:32] (R81). -/
def CmdWord.rsv (w : CmdWord) : BitVec 24 := w.extractLsb' 32 24
/-- The field `operand` = cmd[31:0], taken whole (R81, R83). -/
def CmdWord.operand (w : CmdWord) : Word32 := w.extractLsb' 0 32

/-- The decoder (R82, R84, R85). Which of two reasons is named, where a word is illegal for both, is of no consequence:
log entry 7. -/
def decode (w : CmdWord) : Decoded :=
  if 3 ≤ w.op then .illegal .unknownOpcode
  else if w.rsv ≠ 0 then .illegal .reservedNonzero
  else if w.op = 0 then
    if w.operand = 0 then .instr .init else .illegal .initOperandNonzero
  else if w.op = 1 then .instr (.xlate w.operand)
  else .instr (.fetchb w.operand)

/-- The opcode byte of a command (R82). -/
def Instr.opcode : Instr → BitVec 8
  | .init => 0x00
  | .xlate _ => 0x01
  | .fetchb _ => 0x02

/-- The operand field of a command (R82, R83). -/
def Instr.operandField : Instr → Word32
  | .init => 0
  | .xlate va => va
  | .fetchb pa => pa

/-- The encoder: `op`, a zero `rsv`, the operand, from the high bits down (R81). -/
def encode (i : Instr) : CmdWord := (i.opcode ++ (0 : BitVec 24)) ++ i.operandField

/-- The word the host's table question numbers `w` with `nbits` bits; the bits above are zero (log entry 7). The
command word is one 64-bit word, so bit `k` of the number is bit `k` of the word. -/
def tableWord (nbits w : Nat) : CmdWord := BitVec.ofNat 64 (w % 2 ^ nbits)

/-- The command this decoder reads from a table word; none where it is illegal or longer than a command word. -/
def decodeTableWord (nbits w : Nat) : Option Instr :=
  if nbits ≤ 64 then
    match decode (tableWord nbits w) with
    | .instr i => some i
    | .illegal _ => none
  else none

end Sys2Proof
end

