-- ==== Sys2Proof/Machine/State.lean ====
section
/-! DEFINITION. The state of one instance of the block (spec/10_state.md), the reasons a step can stop, and the state
at the start of an instance. INVENTORY.md lists each field with its rule and its reset value. -/

namespace Sys2Proof.Machine

/-- A TLB entry (R21). -/
structure TlbEntry where
  ppn : Ppn
  tag : TlbTag
  valid : Bool
deriving DecidableEq, Repr

/-- A page-table entry: no tag, the index is an exact key (R24). -/
structure PtEntry where
  ppn : Ppn
  valid : Bool
deriving DecidableEq, Repr

/-- A way of a cache line (R27). Byte `k` of the block is `data[8k+7 : 8k]`. -/
structure Way where
  data : Word32
  tag : CacheTag
  valid : Bool
deriving DecidableEq, Repr

/-- A cache line: two ways and the number of the way to evict next (R26, R29). -/
structure Line where
  way0 : Way
  way1 : Way
  older : WayNo
deriving DecidableEq, Repr

/-- The kinds of spec/30_encoding.md R87, by name; Sys2Proof/Machine/Flags.lean gives their codes. The unused code 6 is
no kind (log entry 6). -/
inductive Kind where
  /-- `ILLEGALVIRTUAL` -/
  | illegalVirtual
  /-- `ADDRESS_FROM_TLB` -/
  | addressFromTlb
  /-- `ADDRESS_FROM_PAGETABLE` -/
  | addressFromPageTable
  /-- `ADDRESS_FROM_PAGE_FAULT_HANDLER` -/
  | addressFromPageFaultHandler
  /-- `DATA_FROM_CACHE` -/
  | dataFromCache
  /-- `DATA_FROM_MEMORY` -/
  | dataFromMemory
  /-- `INIT_DONE`: a response kind, never logged -/
  | initDone
deriving DecidableEq, Repr

/-- An event sent to the logger (R33). -/
structure Event where
  kind : Kind
  value : Word32
deriving DecidableEq, Repr

/-- A response of the block (spec/30_encoding.md R86). -/
structure Response where
  kind : Kind
  data : Word32
deriving DecidableEq, Repr

/-- A call of a collaborator, with its answer where it has one (spec/30_encoding.md R88-R90). -/
inductive ExternalCall where
  /-- `AllocFrame(vpn)`, answered `ppn` -/
  | allocFrame (vpn : Vpn) (ppn : Ppn)
  /-- `MemRead(addr, 4)`, answered `word`; `addr` is the operand of FETCHB unchanged (spec/20_memory.md R58) -/
  | memRead (addr : Word32) (word : Word32)
  /-- `Log(kind, value)` -/
  | logEntry (event : Event)
deriving DecidableEq, Repr

/-- The model faults of spec/60_exceptions.md R173, with the information each records. Raising one is a NEXT state, with
the fault in the field `fault` (R174). The same type is the reason with which `exec` and `step` stop: they stop exactly
when the state they are given already holds a fault, and then with that fault, because the block takes no further
command (R174; log entry 8). Safe: the spec says the instance is stuck for good. -/
inductive Fault where
  /-- `IllegalCommand(cmd)`: raised by `takeIllegal` for a word that spells no command (R84). Safe. -/
  | illegalCommand (cmd : CmdWord)
  /-- `NotInitialized(cmd)`: raised by `takeQuery` for XLATE and FETCHB before the first INIT (R30). Safe. -/
  | notInitialized (cmd : CmdWord)
  /-- `PhysicalOutOfRange(pa)`: raised by FETCHB where `pa[31:22]` is nonzero (R131). Safe. -/
  | physicalOutOfRange (pa : Word32)
deriving DecidableEq, Repr

/-- Refusals. None is ever answered: every row of the opcode table has a meaning. -/
inductive Refusal where
  /-- For an arm of `exec` with no meaning yet; there is none. Safe. -/
  | notModelled (mnemonic : String)
deriving DecidableEq, Repr

/-- The state of one instance. The first six fields are the spec's (R20); the others are the model's own: the block's
ports and its observable history as plain data (log entries 2, 3 and 5). -/
structure State where
  /-- INIT has run on this instance (R30). -/
  init : Bool
  /-- `TLB[0..15]` (R22). -/
  tlb : Vector TlbEntry 16
  /-- `PT[0..511]` (R24). -/
  pt : Vector PtEntry 512
  /-- `C[0..31]` (R26). -/
  cache : Vector Line 32
  /-- The first model fault raised (R31). -/
  fault : Option Fault
  /-- The events sent to the logger, oldest first (R33). -/
  log : List Event
  /-- Model's own: the words the host has offered at the command port and the block has not taken, oldest first (R34, R80). -/
  commands : List CmdWord
  /-- Model's own: answers lined up at the frame allocator's port, oldest first (R88). -/
  frameAnswers : List Ppn
  /-- Model's own: answers lined up at the word fetcher's port, oldest first (R89). -/
  wordAnswers : List Word32
  /-- Model's own: the responses given, oldest first (R86, R200). -/
  responses : List Response
  /-- Model's own: the collaborator calls made, oldest first (R66, R200). Its length numbers the free answers. -/
  calls : List ExternalCall
deriving DecidableEq, Repr

/-- A TLB entry as INIT writes it (spec/10_state.md R40). -/
def TlbEntry.cleared : TlbEntry := ⟨0, 0, false⟩
/-- A page-table entry as INIT writes it (R40). -/
def PtEntry.cleared : PtEntry := ⟨0, false⟩
/-- A way as INIT writes it (R40). -/
def Way.cleared : Way := ⟨0, 0, false⟩
/-- A line as INIT writes it (R40). -/
def Line.cleared : Line := ⟨.cleared, .cleared, 0⟩

/-- The start of an instance, before the first INIT (R41, spec/70_reset_and_hazards.md R190, R200).
DESIGN CHOICE (log entry 1), unsafe: R41 calls the three tables arbitrary; here they are cleared. -/
def State.reset : State where
  init := false
  tlb := Vector.replicate 16 .cleared
  pt := Vector.replicate 512 .cleared
  cache := Vector.replicate 32 .cleared
  fault := none
  log := []
  commands := []
  frameAnswers := []
  wordAnswers := []
  responses := []
  calls := []

end Sys2Proof.Machine
end

