-- ==== Sys2Proof/Machine/Flags.lean ====
section
/-! DEFINITION. The block has no flags (spec/10_state.md R35): the outcome class of a command is the kind of its response
and of its event. Here are the kinds' codes, the response and the event as bits, and the counts a host takes from the log. -/

namespace Sys2Proof.Machine

/-- The 3-bit code of a kind (spec/30_encoding.md R87). -/
def Kind.code : Kind → BitVec 3
  | .illegalVirtual => 0
  | .addressFromTlb => 1
  | .addressFromPageTable => 2
  | .addressFromPageFaultHandler => 3
  | .dataFromCache => 4
  | .dataFromMemory => 5
  | .initDone => 7

/-- The kind with a given code; code 6 is unused (R87). -/
def Kind.ofCode (c : BitVec 3) : Option Kind :=
  if c = 0 then some .illegalVirtual
  else if c = 1 then some .addressFromTlb
  else if c = 2 then some .addressFromPageTable
  else if c = 3 then some .addressFromPageFaultHandler
  else if c = 4 then some .dataFromCache
  else if c = 5 then some .dataFromMemory
  else if c = 7 then some .initDone
  else none

/-- Whether a kind can be logged: all but `INIT_DONE` (R87). -/
def Kind.isEventKind (k : Kind) : Bool := k != .initDone

/-- The response port's two signals, `rsp_kind` and `rsp_data` (R80). -/
def Response.port (r : Response) : BitVec 3 × Word32 := (r.kind.code, r.data)

/-- The logger port's two signals, `log_kind` and `log_value` (R80). -/
def Event.port (e : Event) : BitVec 3 × Word32 := (e.kind.code, e.value)

/-- How many events of a kind the log holds: "a host counts hits and misses from the log" (spec/60_exceptions.md R184). -/
def eventCount (k : Kind) (log : List Event) : Nat := (log.filter (fun e => e.kind == k)).length

end Sys2Proof.Machine
end

