-- ==== Sys2Proof/Machine/Operands.lean ====
section
/-! DEFINITION. The address decomposer and the other bit fields of operands and results
(spec/20_memory.md R51-R58). The slice `v[hi:lo]` of spec/00_scope.md R13 is `v.extractLsb' lo (hi - lo + 1)`. -/

namespace Sys2Proof.Machine

/-- A virtual address is legal iff `va[31:18] == 0` (R51). -/
def vaLegal (va : Word32) : Bool := va.extractLsb' 18 14 == 0
/-- `vpn = va[17:9]` (R52). -/
def vpnOf (va : Word32) : Vpn := va.extractLsb' 9 9
/-- `vpo = va[8:0]` (R52). -/
def vpoOf (va : Word32) : Vpo := va.extractLsb' 0 9
/-- `tlb_index = vpn[3:0]` (R52). -/
def tlbIndexOf (vpn : Vpn) : TlbIndex := vpn.extractLsb' 0 4
/-- `tlb_tag = vpn[8:4]` (R52). -/
def tlbTagOf (vpn : Vpn) : TlbTag := vpn.extractLsb' 4 5
/-- The page number a TLB entry of index `i` with tag `tag` is for: `tag ++ i` (spec/10_state.md R38). -/
def vpnOfTlb (tag : TlbTag) (i : TlbIndex) : Vpn := tag ++ i

/-- `pa = zext_32(ppn ++ vpo)` (R53). -/
def paOf (ppn : Ppn) (vpo : Vpo) : Word32 := (ppn ++ vpo).zeroExtend 32

/-- The failure result of XLATE, the pattern of -1 (spec/41_translate.md R101, spec/30_encoding.md R83, R86). -/
def sentinel : Word32 := 0xFFFFFFFF

/-- FETCHB takes the address iff `pa[31:22] == 0` (spec/42_cache.md R131). -/
def paInRange (pa : Word32) : Bool := pa.extractLsb' 22 10 == 0
/-- `ctag = pa[21:9]` (R54). -/
def ctagOf (pa : Word32) : CacheTag := pa.extractLsb' 9 13
/-- `line = pa[6:2]` (R54); bits 8:7 are in no field. -/
def lineOf (pa : Word32) : LineIndex := pa.extractLsb' 2 5
/-- `off = pa[1:0]` (R54). -/
def offOf (pa : Word32) : ByteOffset := pa.extractLsb' 0 2
/-- The byte address of the aligned word that holds byte `pa`: `pa[31:2] ++ 0b00` (R55). -/
def alignedWord (pa : Word32) : Word32 := pa.extractLsb' 2 30 ++ (0 : BitVec 2)

/-- `ByteOf(w, k) = w[8k+7 : 8k]`, little-endian (R56). -/
def byteOf (w : Word32) (k : ByteOffset) : Byte := w.extractLsb' (8 * k.toNat) 8
/-- A byte as a response or an event carries it: zero-extended (spec/30_encoding.md R86, R87). -/
def byteValue (b : Byte) : Word32 := b.zeroExtend 32

end Sys2Proof.Machine
end

