-- ==== Sys2Proof/Machine/Ops.lean ====
section
/-! DEFINITION. The shared operations over the state: reading and writing the tables, calling the collaborators, giving
the response, raising a model fault, the checks every command makes first, and taking the next command word
(the primitives of spec/00_scope.md R14). -/

namespace Sys2Proof.Machine

/-! ### The tables -/

/-- `TLB[i]` (spec/10_state.md R22). -/
def State.tlbAt (s : State) (i : TlbIndex) : TlbEntry := s.tlb[i.toNat]'i.isLt
/-- `TLB[i] <- e`. -/
def State.setTlb (s : State) (i : TlbIndex) (e : TlbEntry) : State := { s with tlb := s.tlb.set i.toNat e i.isLt }
/-- `PT[v]` (R24). -/
def State.ptAt (s : State) (v : Vpn) : PtEntry := s.pt[v.toNat]'v.isLt
/-- `PT[v] <- e`. -/
def State.setPt (s : State) (v : Vpn) (e : PtEntry) : State := { s with pt := s.pt.set v.toNat e v.isLt }
/-- `C[l]` (R26). -/
def State.lineAt (s : State) (l : LineIndex) : Line := s.cache[l.toNat]'l.isLt
/-- `C[l] <- x`. -/
def State.setLine (s : State) (l : LineIndex) (x : Line) : State := { s with cache := s.cache.set l.toNat x l.isLt }

/-- `way[w]` of a line (R26). -/
def Line.way (x : Line) (w : WayNo) : Way := if w = 0 then x.way0 else x.way1
/-- `way[w] <- y` of a line. -/
def Line.setWay (x : Line) (w : WayNo) (y : Way) : Line := if w = 0 then { x with way0 := y } else { x with way1 := y }

/-! ### The collaborators -/

/-- The answer the next call of the frame allocator gets: the oldest one lined up at its port, else the free value
(spec/30_encoding.md R88; log entry 3). -/
def State.frameAnswer (s : State) (vpn : Vpn) : Ppn :=
  match s.frameAnswers with
  | p :: _ => p
  | [] => Config.freeFrame s.calls.length vpn

/-- The state after one call of the frame allocator: the answer is taken from its port and the call is recorded. -/
def State.takeFrame (s : State) (vpn : Vpn) : State :=
  { s with frameAnswers := s.frameAnswers.tail, calls := s.calls ++ [.allocFrame vpn (s.frameAnswer vpn)] }

/-- The answer the next `MemRead(pa, 4)` gets: the oldest one lined up at the word fetcher's port, else the free value
for the aligned word (spec/30_encoding.md R89, spec/20_memory.md R58; log entries 3 and 4). -/
def State.wordAnswer (s : State) (pa : Word32) : Word32 :=
  match s.wordAnswers with
  | w :: _ => w
  | [] => Config.freeWord s.calls.length (alignedWord pa)

/-- The state after one `MemRead(pa, 4)`: the answer is taken and the call, with `pa` unchanged, is recorded. -/
def State.takeWord (s : State) (pa : Word32) : State :=
  { s with wordAnswers := s.wordAnswers.tail, calls := s.calls ++ [.memRead pa (s.wordAnswer pa)] }

/-- `Log(kind, value)` (spec/30_encoding.md R90, spec/10_state.md R33). -/
def State.logEvent (s : State) (kind : Kind) (value : Word32) : State :=
  { s with log := s.log ++ [⟨kind, value⟩], calls := s.calls ++ [.logEntry ⟨kind, value⟩] }

/-- `respond(kind, value)` (spec/30_encoding.md R86). -/
def State.respond (s : State) (kind : Kind) (data : Word32) : State :=
  { s with responses := s.responses ++ [⟨kind, data⟩] }

/-- The end of every query that raises no fault: one event, then one response of the same kind (R86, R110). -/
def State.finish (s : State) (kind : Kind) (value data : Word32) : State :=
  (s.logEvent kind value).respond kind data

/-! ### Raising a model fault, and the checks every command makes first -/

/-- Raising a model fault: the first one is kept, nothing else changes (spec/60_exceptions.md R174). There is no other
entry, no saved state and no return (R172, R176). -/
def State.raise (s : State) (f : Fault) : State :=
  match s.fault with
  | none => { s with fault := some f }
  | some _ => s

/-- Check (1) of spec/60_exceptions.md R175: while a fault is recorded no command is taken (log entry 8). -/
def takeCommand (s : State) (body : State → State) : Host.Outcome State Fault Refusal :=
  match s.fault with
  | some f => .fault f
  | none => .next (body s)

/-- Checks (1) and (3) of R175, for a query whose command word is `cmd` (log entry 10). -/
def takeQuery (cmd : CmdWord) (s : State) (body : State → State) : Host.Outcome State Fault Refusal :=
  takeCommand s (fun s => if s.init then body s else s.raise (.notInitialized cmd))

/-- Checks (1) and (2) of R175, for a word that spells no command (spec/30_encoding.md R84). -/
def takeIllegal (cmd : CmdWord) (s : State) : Host.Outcome State Fault Refusal :=
  takeCommand s (fun s => s.raise (.illegalCommand cmd))

/-! ### The command port -/

/-- The oldest word offered at the command port, with the state in which it has been taken (log entry 2). -/
def State.nextCommand (s : State) : Option (CmdWord × State) :=
  match s.commands with
  | [] => none
  | w :: ws => some (w, { s with commands := ws })

end Sys2Proof.Machine
end

