-- ==== Sys2Proof/Machine/Cache.lean ====
section
/-! DEFINITION. FETCHB: the 2-way cache and the replacement FSM of each line (spec/42_cache.md R130-R138). -/

namespace Sys2Proof.Machine

/-- A way hits iff it is valid with an equal tag (R133). -/
def Way.hits (y : Way) (ctag : CacheTag) : Bool := y.valid && y.tag == ctag

/-- The first way of the line that hits, way 0 before way 1 (R133). -/
def Line.lookup (x : Line) (ctag : CacheTag) : Option WayNo :=
  if x.way0.hits ctag then some 0 else if x.way1.hits ctag then some 1 else none

/-- `Victim` of the replacement FSM: an invalid way, way 0 first; else the way the line's own `older` names
(R136; per line, never line 0's bit: R141). -/
def Line.victim (x : Line) : WayNo :=
  if !x.way0.valid then 0 else if !x.way1.valid then 1 else x.older

/-- The install of a fetched word: the victim way is written and `older` names the other way (R135, R136). -/
def Line.install (x : Line) (ctag : CacheTag) (word : Word32) : Line :=
  { x.setWay x.victim ⟨word, ctag, true⟩ with older := 1 - x.victim }

/-- The end of a fetch: event and response carry the byte of `word` at the operand's offset (R134, R135, R138). -/
def State.fetched (s : State) (kind : Kind) (word : Word32) (pa : Word32) : State :=
  s.finish kind (byteValue (byteOf word (offOf pa))) (byteValue (byteOf word (offOf pa)))

/-- A cache miss: one `MemRead`, the install, then the byte of the fetched word (R135). -/
def State.cacheMiss (s : State) (pa : Word32) : State :=
  let word := s.wordAnswer pa
  let l := lineOf pa
  ((s.takeWord pa).setLine l ((s.lineAt l).install (ctagOf pa) word)).fetched .dataFromMemory word pa

/-- The body of FETCHB after the checks every query makes: range check, the two ways of the line, the fetcher (R130). -/
def State.fetchByte (s : State) (pa : Word32) : State :=
  if paInRange pa then
    match (s.lineAt (lineOf pa)).lookup (ctagOf pa) with
    | some w => s.fetched .dataFromCache ((s.lineAt (lineOf pa)).way w).data pa
    | none => s.cacheMiss pa
  else s.raise (.physicalOutOfRange pa)

/-- FETCHB (R130). -/
def execFetchb (pa : Word32) (s : State) : Host.Outcome State Fault Refusal :=
  takeQuery (encode (.fetchb pa)) s (fun s => s.fetchByte pa)

end Sys2Proof.Machine
end

