-- ==== Sys2Proof/Machine/Control.lean ====
section
/-! DEFINITION. INIT (spec/43_control.md R160-R163). -/

namespace Sys2Proof.Machine

/-- Every entry of the three tables takes the value of spec/10_state.md R40. -/
def State.clearTables (s : State) : State :=
  { s with
    tlb := Vector.replicate 16 .cleared
    pt := Vector.replicate 512 .cleared
    cache := Vector.replicate 32 .cleared }

/-- INIT (R160): the tables cleared, `init` set, the response (7, 0); no event, no collaborator called (R162). -/
def execInit (s : State) : Host.Outcome State Fault Refusal :=
  takeCommand s (fun s => ({ s.clearTables with init := true }).respond .initDone 0)

end Sys2Proof.Machine
end

