-- ==== Sys2Proof/Machine/Translate.lean ====
section
/-! DEFINITION. XLATE: the TLB engine, the page-table engine and the page-fault path (spec/41_translate.md R100-R110). -/

namespace Sys2Proof.Machine

/-- The TLB lookup engine: the one entry the index selects, hit iff valid with an equal tag (R103). -/
def State.tlbLookup (s : State) (vpn : Vpn) : Option Ppn :=
  let e := s.tlbAt (tlbIndexOf vpn)
  if e.valid && e.tag == tlbTagOf vpn then some e.ppn else none

/-- The page-table lookup engine: exact index, hit iff valid (R105). -/
def State.ptLookup (s : State) (vpn : Vpn) : Option Ppn :=
  let e := s.ptAt vpn
  if e.valid then some e.ppn else none

/-- `TLBFill(idx, tag, ppn)` for the page `vpn` (R108). -/
def State.tlbFill (s : State) (vpn : Vpn) (ppn : Ppn) : State :=
  s.setTlb (tlbIndexOf vpn) ⟨ppn, tlbTagOf vpn, true⟩

/-- The end of a legal translation: event and response carry `pa = zext_32(ppn ++ vpo)` (R104, R106, R107). -/
def State.translated (s : State) (kind : Kind) (ppn : Ppn) (va : Word32) : State :=
  s.finish kind (paOf ppn (vpoOf va)) (paOf ppn (vpoOf va))

/-- A virtual address out of range: the event carries `va`, the response the sentinel (R101). -/
def State.illegalVa (s : State) (va : Word32) : State := s.finish .illegalVirtual va sentinel

/-- A page-table hit: the TLB is filled (R106). -/
def State.ptHit (s : State) (va : Word32) (ppn : Ppn) : State :=
  (s.tlbFill (vpnOf va) ppn).translated .addressFromPageTable ppn va

/-- The page-fault path: one call of the allocator, then the page table, then the TLB (R107). -/
def State.pageFault (s : State) (va : Word32) : State :=
  let vpn := vpnOf va
  let ppn := s.frameAnswer vpn
  (((s.takeFrame vpn).setPt vpn ⟨ppn, true⟩).tlbFill vpn ppn).translated .addressFromPageFaultHandler ppn va

/-- The body of XLATE after the model-fault checks: range check, TLB, page table, allocator, in this order (R100, R114). -/
def State.translate (s : State) (va : Word32) : State :=
  if vaLegal va then
    match s.tlbLookup (vpnOf va) with
    | some ppn => s.translated .addressFromTlb ppn va
    | none =>
      match s.ptLookup (vpnOf va) with
      | some ppn => s.ptHit va ppn
      | none => s.pageFault va
  else s.illegalVa va

/-- XLATE (R100). -/
def execXlate (va : Word32) (s : State) : Host.Outcome State Fault Refusal :=
  takeQuery (encode (.xlate va)) s (fun s => s.translate va)

end Sys2Proof.Machine
end

