-- ==== Sys2Proof/Machine/Dispatch.lean ====
section
/-! DEFINITION. One arm for each command: its meaning. -/

namespace Sys2Proof.Machine

/-- The effect of a command on an instance. -/
def exec (i : Instr) (s : State) : Host.Outcome State Fault Refusal :=
  match i with
  | .init => Sys2Proof.Machine.execInit s
  | .xlate va => Sys2Proof.Machine.execXlate va s
  | .fetchb pa => Sys2Proof.Machine.execFetchb pa s

end Sys2Proof.Machine
end

