-- ==== Sys2Proof/Machine/Step.lean ====
section
/-! DEFINITION. One step: the block takes the oldest command the host has offered, as one atomic step
(spec/00_scope.md R3, spec/20_memory.md R60, R65), in the order of checks of spec/60_exceptions.md R175. -/

namespace Sys2Proof.Machine

/-- One step. An instance that holds a fault is stuck (R174; log entry 8). With no command offered the block is idle and
holds its state (spec/60_exceptions.md R185, spec/70_reset_and_hazards.md R191; log entry 2). -/
def step (s : State) : Host.Outcome State Fault Refusal :=
  match s.fault with
  | some f => .fault f
  | none =>
    match s.nextCommand with
    | none => .next s
    | some (w, s') =>
      match decode w with
      | .instr i => exec i s'
      | .illegal _ => takeIllegal w s'

/-- The state with the table word offered before every other word at the command port, so that the next step takes it
(log entry 2). -/
def State.withFetchWord (s : State) (nbits w : Nat) : State :=
  { s with commands := tableWord nbits w :: s.commands }

end Sys2Proof.Machine
end

