-- ==== Sys2Proof/Machine/Assembler.lean ====
section
/-! DEFINITION. The assembler of command scripts (spec/30_encoding.md R91): one command a line, `INIT`, `XLATE <imm>`,
`FETCHB <imm>`, with `;` comments. Conventions R91 leaves open are in log entry 11. A text is a list of characters. -/

namespace Sys2Proof.Machine

/-- A command as a script writes it: the immediate is a number, not yet a pattern (R91). -/
inductive SourceCommand where
  | init
  | xlate (imm : Int)
  | fetchb (imm : Int)
deriving DecidableEq, Repr

/-- The values R91 takes: -2^31 to 2^32 - 1. -/
def immInRange (imm : Int) : Bool := -2147483648 ≤ imm && imm ≤ 4294967295

/-- A source command is well formed iff its immediate is in range (R91). -/
def SourceCommand.wellFormed : SourceCommand → Bool
  | .init => true
  | .xlate imm => immInRange imm
  | .fetchb imm => immInRange imm

/-- `imm[31:0]`: a negative number is its 32-bit two's-complement pattern (R83, R91). -/
def immPattern (imm : Int) : Word32 := BitVec.ofInt 32 imm

/-- The command a source command stands for; out-of-range values are refused (R91). -/
def SourceCommand.instr (c : SourceCommand) : Option Instr :=
  if c.wellFormed then
    match c with
    | .init => some .init
    | .xlate imm => some (.xlate (immPattern imm))
    | .fetchb imm => some (.fetchb (immPattern imm))
  else none

/-- The 64-bit word `op << 56 | imm[31:0]` the assembler emits (R91). -/
def SourceCommand.assemble (c : SourceCommand) : Option CmdWord := c.instr.map encode

/-- The value of a decimal digit. -/
def decDigit (c : Char) : Option Nat :=
  if '0'.toNat ≤ c.toNat && c.toNat ≤ '9'.toNat then some (c.toNat - '0'.toNat) else none

/-- The value of a hexadecimal digit, of either case. -/
def hexDigit (c : Char) : Option Nat :=
  if 'a'.toNat ≤ c.toNat && c.toNat ≤ 'f'.toNat then some (c.toNat - 'a'.toNat + 10)
  else if 'A'.toNat ≤ c.toNat && c.toNat ≤ 'F'.toNat then some (c.toNat - 'A'.toNat + 10)
  else decDigit c

/-- The number that digits of a base spell, after the part `acc` already read; none at a character that is no digit. -/
def digitsValue (base : Nat) (digit : Char → Option Nat) : Nat → List Char → Option Nat
  | acc, [] => some acc
  | acc, c :: cs => (digit c).bind (fun d => digitsValue base digit (base * acc + d) cs)

/-- A number of at least one digit. -/
def natOf (base : Nat) (digit : Char → Option Nat) (cs : List Char) : Option Nat :=
  if cs.isEmpty then none else digitsValue base digit 0 cs

/-- `<imm>`: `0x` and hexadecimal digits, or a decimal with an optional minus sign (R91). -/
def parseImm : List Char → Option Int
  | '0' :: 'x' :: cs => (natOf 16 hexDigit cs).map Int.ofNat
  | '-' :: cs => (natOf 10 decDigit cs).map (fun n => -Int.ofNat n)
  | cs => (natOf 10 decDigit cs).map Int.ofNat

/-- Whether a character separates the words of a line. -/
def isBlank (c : Char) : Bool := c == ' ' || c == '\t' || c == '\r'

/-- The words of a line; `word` holds the characters of the word being read, last first. -/
def wordsOf : List Char → List Char → List (List Char)
  | [], [] => []
  | word, [] => [word.reverse]
  | word, c :: cs =>
    if isBlank c then
      if word.isEmpty then wordsOf [] cs else word.reverse :: wordsOf [] cs
    else wordsOf (c :: word) cs

/-- What a line says: no command (blank, or a comment alone), or one command; none where it is no line of R91. -/
def parseLine (line : List Char) : Option (Option SourceCommand) :=
  match wordsOf [] (line.takeWhile (fun c => c != ';')) with
  | [] => some none
  | [['I', 'N', 'I', 'T']] => some (some .init)
  | [['X', 'L', 'A', 'T', 'E'], imm] => (parseImm imm).map (fun n => some (.xlate n))
  | [['F', 'E', 'T', 'C', 'H', 'B'], imm] => (parseImm imm).map (fun n => some (.fetchb n))
  | _ => none

/-- The lines of a text; `line` holds the characters of the line being read, last first. -/
def linesOf : List Char → List Char → List (List Char)
  | line, [] => [line.reverse]
  | line, c :: cs => if c == '\n' then line.reverse :: linesOf [] cs else linesOf (c :: line) cs

/-- The words of one line: none of them for a line without a command. -/
def assembleLine (line : List Char) : Option (List CmdWord) :=
  match parseLine line with
  | none => none
  | some none => some []
  | some (some c) => c.assemble.map (fun w => [w])

/-- The words of a script, in order; none where a line is refused (R91). -/
def assembleLines : List (List Char) → Option (List CmdWord)
  | [] => some []
  | l :: ls => (assembleLine l).bind (fun ws => (assembleLines ls).map (fun rest => ws ++ rest))

/-- The assembler (R91). -/
def assembleScript (text : List Char) : Option (List CmdWord) := assembleLines (linesOf [] text)

end Sys2Proof.Machine
end

