-- ==== Sys2Proof/Machine/HostSequence.lean ====
section
/-! DEFINITION. What the host does with the block: commands one after another (spec/20_memory.md R65), the two-command
byte load (spec/30_encoding.md R92), and backing memory as the host's own (spec/10_state.md R43), which is no state of
the block and occurs only in the premises of claims (spec/70_reset_and_hazards.md R193). -/

namespace Sys2Proof.Machine

/-- Commands one after another, each on the state the one before left; it stops where one is not taken (R65, R200). -/
def execAll : List Instr → State → Host.Outcome State Fault Refusal
  | [], s => .next s
  | i :: is, s =>
    match exec i s with
    | .next t => execAll is t
    | .fault f => .fault f
    | .refused r => .refused r

/-- The last response given, if any. -/
def State.lastResponse (s : State) : Option Response := s.responses.getLast?

/-- "load the byte at virtual address `va`": XLATE, then, only if it answered with a kind other than 0, FETCHB of the
answered data. The host chains them, not the block (R92; log entry 12). -/
def loadByte (va : Word32) (s : State) : Host.Outcome State Fault Refusal :=
  match exec (.xlate va) s with
  | .next t =>
    if t.fault.isSome then .next t
    else
      match t.lastResponse with
      | some r => if r.kind = .illegalVirtual then .next t else exec (.fetchb r.data) t
      | none => .next t
  | .fault f => .fault f
  | .refused r => .refused r

/-- The little-endian word of a byte memory at byte address `a` (spec/20_memory.md R55, R56). -/
def wordAt (mem : Word32 → Byte) (a : Word32) : Word32 := mem (a + 3) ++ mem (a + 2) ++ mem (a + 1) ++ mem a

/-- The premise of R193 item 4: the answer the next `MemRead(pa, 4)` gets is backing memory's word at that time. -/
def AnswersFrom (mem : Word32 → Byte) (s : State) (pa : Word32) : Prop :=
  s.wordAnswer pa = wordAt mem (alignedWord pa)

end Sys2Proof.Machine
end

