-- ==== Sys2Proof/Safety.lean ====
section
/-! DEFINITION. The terms claims use: a good state, the invariants the spec states, and when two states cannot be told
apart. -/

namespace Sys2Proof.Machine

/-- The block takes queries: INIT has run and no model fault is recorded (spec/60_exceptions.md R174, R175). A run that
records a fault is a failed run (spec/70_reset_and_hazards.md R200). -/
def State.Ready (s : State) : Prop := s.init = true ∧ s.fault = none

/-- spec/10_state.md R38: each mapping a TLB entry holds is the page table's. -/
def State.TlbInPt (s : State) : Prop :=
  ∀ i : TlbIndex, (s.tlbAt i).valid = true →
    s.ptAt (vpnOfTlb (s.tlbAt i).tag i) = ⟨(s.tlbAt i).ppn, true⟩

/-- R28: within a line at most one valid way holds a given tag. -/
def State.WaysDistinct (s : State) : Prop :=
  ∀ l : LineIndex, (s.lineAt l).way0.valid = true → (s.lineAt l).way1.valid = true →
    (s.lineAt l).way0.tag ≠ (s.lineAt l).way1.tag

/-- The four reachable states of a line (R39), as `(way0.valid, way1.valid, older)`. -/
def Line.Reachable (x : Line) : Prop :=
  (x.way0.valid, x.way1.valid, x.older) = (false, false, 0) ∨
  (x.way0.valid, x.way1.valid, x.older) = (true, false, 1) ∨
  (x.way0.valid, x.way1.valid, x.older) = (true, true, 0) ∨
  (x.way0.valid, x.way1.valid, x.older) = (true, true, 1)

/-- Every line is in one of its reachable states (R39). -/
def State.LinesReachable (s : State) : Prop := ∀ l : LineIndex, (s.lineAt l).Reachable

/-- Each valid page-table entry holds a frame the allocator answered for that page (R25). -/
def State.PtFromAllocator (s : State) : Prop :=
  ∀ v : Vpn, (s.ptAt v).valid = true → ExternalCall.allocFrame v (s.ptAt v).ppn ∈ s.calls

/-- Each valid way holds a word the fetcher answered for an in-range address of the way's line and tag (spec/42_cache.md
R135, R137). -/
def State.CacheFromFetcher (s : State) : Prop :=
  ∀ (l : LineIndex) (w : WayNo), ((s.lineAt l).way w).valid = true →
    ∃ pa : Word32, paInRange pa = true ∧ lineOf pa = l ∧ ctagOf pa = ((s.lineAt l).way w).tag ∧
      ExternalCall.memRead pa ((s.lineAt l).way w).data ∈ s.calls

/-- The event of a collaborator call, for the logger's calls. -/
def ExternalCall.event? : ExternalCall → Option Event
  | .logEntry e => some e
  | .allocFrame _ _ => none
  | .memRead _ _ => none

/-- The log is what the logger was sent, in order, and holds no `INIT_DONE` (R33, spec/30_encoding.md R87, R90). -/
def State.LogSound (s : State) : Prop :=
  s.log = s.calls.filterMap ExternalCall.event? ∧ ∀ e ∈ s.log, e.kind.isEventKind = true

/-- Two entries of a table cannot be told apart: both invalid, or equal (R23, R40). -/
def TlbEntry.Same (a b : TlbEntry) : Prop := a.valid = b.valid ∧ (a.valid = true → a = b)
/-- The same of page-table entries (R40). -/
def PtEntry.Same (a b : PtEntry) : Prop := a.valid = b.valid ∧ (a.valid = true → a = b)
/-- The same of ways (R40). -/
def Way.Same (a b : Way) : Prop := a.valid = b.valid ∧ (a.valid = true → a = b)
/-- The same of lines: `older` counts only where both ways are valid (R29, R40). -/
def Line.Same (a b : Line) : Prop :=
  a.way0.Same b.way0 ∧ a.way1.Same b.way1 ∧
    (a.way0.valid = true → a.way1.valid = true → a.older = b.older)

/-- Two states that differ at most in fields no command can read: those R40 calls not observable, and the whole tables
before the first INIT (R41). -/
def State.Same (s t : State) : Prop :=
  s.init = t.init ∧ s.fault = t.fault ∧ s.log = t.log ∧ s.commands = t.commands ∧
  s.frameAnswers = t.frameAnswers ∧ s.wordAnswers = t.wordAnswers ∧ s.responses = t.responses ∧ s.calls = t.calls ∧
  (s.init = true →
    (∀ i, (s.tlbAt i).Same (t.tlbAt i)) ∧ (∀ v, (s.ptAt v).Same (t.ptAt v)) ∧ (∀ l, (s.lineAt l).Same (t.lineAt l)))

/-- Two outcomes that cannot be told apart. -/
def SameOutcome : Host.Outcome State Fault Refusal → Host.Outcome State Fault Refusal → Prop
  | .next s, .next t => s.Same t
  | .fault f, .fault g => f = g
  | .refused r, .refused q => r = q
  | _, _ => False

end Sys2Proof.Machine
end

