-- ==== Sys2Proof/Certificates/Slice0/Obligations.lean ====
section
/-! DEFINITION. The statements about the model, from the numbered rules of spec/. Each docstring names its rule.
`OBLIGATIONS.json` lists them. Slices of addresses are the functions of Sys2Proof/Machine/Operands.lean, which
`VirtualAddressFields`, `PhysicalAddressFields` and `TranslatedAddressForm` tie to arithmetic. -/

open Sys2Proof Sys2Proof.Machine

/-! ### Encoding -/

/-- R81, R82, R83: the decoder reads back each encoded command, with its whole operand. -/
def Obligations.DecodeOfEncodeIsTheCommand : Prop := ∀ i : Instr, decode (encode i) = .instr i

/-- R81, R85: a word that spells a command is that command's encoding: no bit of a word is dropped. -/
def Obligations.EncodeOfDecodeIsTheWord : Prop := ∀ (w : CmdWord) (i : Instr), decode w = .instr i → encode i = w

/-- R85: the decoder agrees with the match and mask rows of the opcode table on every word, and the operand is
`cmd[31:0]`. -/
def Obligations.DecoderReadsTheOpcodeTable : Prop :=
  ∀ w : CmdWord,
    (decode w = .instr .init ↔ w = 0x0000000000000000) ∧
    (∀ va, decode w = .instr (.xlate va) ↔
      w &&& 0xFFFFFFFF00000000 = 0x0100000000000000 ∧ va = w.setWidth 32) ∧
    (∀ pa, decode w = .instr (.fetchb pa) ↔
      w &&& 0xFFFFFFFF00000000 = 0x0200000000000000 ∧ pa = w.setWidth 32) ∧
    ((∃ why, decode w = .illegal why) ↔
      w ≠ 0 ∧ w &&& 0xFFFFFFFF00000000 ≠ 0x0100000000000000 ∧ w &&& 0xFFFFFFFF00000000 ≠ 0x0200000000000000)

/-- R84: a word with an unknown opcode, a nonzero reserved field, or opcode 0 and a nonzero operand raises
`IllegalCommand` with the word, and changes nothing else. -/
def Obligations.IllegalWordRaisesIllegalCommand : Prop :=
  ∀ (s : State) (w : CmdWord) (ws : List CmdWord),
    s.fault = none → s.commands = w :: ws → w.wellFormed = false →
    step s = .next { s with commands := ws, fault := some (.illegalCommand w) }

/-- R84, R85: the three checks of R84 on the bits of a word pass exactly on the words the decoder reads a command from. -/
def Obligations.WellFormedWordsDecode : Prop :=
  ∀ w : CmdWord, w.wellFormed = true ↔ ∃ i, decode w = .instr i

/-- Words of spec/95_test_vectors.md (E1, E3, E5 and the illegal E2, E6, E7). -/
def Obligations.SpecWordsDecode : Prop :=
  decode 0x0000000000000000 = .instr .init ∧
  decode 0x0100000000012345 = .instr (.xlate 0x00012345) ∧
  decode 0x0200000000000A05 = .instr (.fetchb 0x00000A05) ∧
  decode 0x0000000000000001 = .illegal .initOperandNonzero ∧
  decode 0x0100000100000000 = .illegal .reservedNonzero ∧
  decode 0x0300000000000000 = .illegal .unknownOpcode

/-! ### The address decomposer -/

/-- R51, R52: the legal virtual addresses, and the fields of every virtual address. -/
def Obligations.VirtualAddressFields : Prop :=
  ∀ va : Word32,
    (vaLegal va = true ↔ va.toNat < 2 ^ 18) ∧
    (va.msb = true → vaLegal va = false) ∧
    (vpnOf va).toNat = va.toNat / 2 ^ 9 % 2 ^ 9 ∧
    (vpoOf va).toNat = va.toNat % 2 ^ 9 ∧
    (tlbIndexOf (vpnOf va)).toNat = va.toNat / 2 ^ 9 % 2 ^ 4 ∧
    (tlbTagOf (vpnOf va)).toNat = va.toNat / 2 ^ 13 % 2 ^ 5 ∧
    tlbTagOf (vpnOf va) ++ tlbIndexOf (vpnOf va) = vpnOf va ∧
    vpnOf va ++ vpoOf va = va.setWidth 18

/-- R54, R131: the cache fields of every physical address, and which addresses FETCHB takes. -/
def Obligations.PhysicalAddressFields : Prop :=
  ∀ pa : Word32,
    (paInRange pa = true ↔ pa.toNat < 2 ^ 22) ∧
    (ctagOf pa).toNat = pa.toNat / 2 ^ 9 % 2 ^ 13 ∧
    (lineOf pa).toNat = pa.toNat / 2 ^ 2 % 2 ^ 5 ∧
    (offOf pa).toNat = pa.toNat % 2 ^ 2 ∧
    (alignedWord pa).toNat = pa.toNat - pa.toNat % 4

/-- R53: the form of a translated address. -/
def Obligations.TranslatedAddressForm : Prop :=
  ∀ (ppn : Ppn) (vpo : Vpo),
    (paOf ppn vpo).toNat = ppn.toNat * 2 ^ 9 + vpo.toNat ∧
    (paOf ppn vpo).extractLsb' 22 10 = 0 ∧
    ctagOf (paOf ppn vpo) = ppn ∧
    vpoOf (paOf ppn vpo) = vpo ∧
    paOf ppn vpo ≠ 0xFFFFFFFF

/-- R56, R138: offset 0 is the least significant byte of a word, offset 3 the most significant. -/
def Obligations.BytesAreLittleEndian : Prop :=
  ∀ (w : Word32) (k : ByteOffset), (byteOf w k).toNat = w.toNat / 2 ^ (8 * k.toNat) % 2 ^ 8

/-! ### One step, the start of an instance, and model faults -/

/-- R34, R65: a step takes the oldest word offered and is `exec` of the command it spells, on the state in which that word
has been taken. -/
def Obligations.StepRunsTheDecodedCommand : Prop :=
  ∀ (s : State) (w : CmdWord) (ws : List CmdWord) (i : Instr),
    s.fault = none → s.commands = w :: ws → decode w = .instr i →
    step s = exec i { s with commands := ws }

/-- The model's choice (log entry 2), from R185 and R191: with no command offered the block holds its state. -/
def Obligations.IdleStepHoldsTheState : Prop :=
  ∀ s : State, s.fault = none → s.commands = [] → step s = .next s

/-- The model's choice (log entry 8), from R174: an instance that holds a fault stops, with that fault, on every step and
every command, INIT among them. -/
def Obligations.StuckInstanceStops : Prop :=
  ∀ (s : State) (f : Fault), s.fault = some f → step s = .fault f ∧ ∀ i : Instr, exec i s = .fault f

/-- From R60 (every operation runs to completion) and R174: no step and no command is refused, and one stops only on an
instance that holds a fault. Two points are the model's choice: that a stop answers the outcome fault with the recorded fault
(log entry 8), and that a step with no command offered has a next state (log entry 2). -/
def Obligations.NothingStopsAHealthyInstance : Prop :=
  ∀ s : State, (∀ r, step s ≠ .refused r) ∧ (∀ f, step s = .fault f → s.fault = some f) ∧
    (∀ i r, exec i s ≠ .refused r) ∧ (∀ i f, exec i s = .fault f → s.fault = some f)

/-- R173: each model fault is raised exactly under its condition, with the information R173 names. -/
def Obligations.ModelFaultTable : Prop :=
  ∀ (s t : State) (w : CmdWord) (ws : List CmdWord),
    s.fault = none → s.commands = w :: ws → step s = .next t →
    (∀ c, t.fault = some (.illegalCommand c) ↔ c = w ∧ w.wellFormed = false) ∧
    (∀ c, t.fault = some (.notInitialized c) ↔
      c = w ∧ s.init = false ∧ ∃ i, decode w = .instr i ∧ i.isQuery = true) ∧
    (∀ p, t.fault = some (.physicalOutOfRange p) ↔
      s.init = true ∧ decode w = .instr (.fetchb p) ∧ p.extractLsb' 22 10 ≠ 0)

/-- R174: a step that records a fault records the first one and does nothing else but take the command; while a fault is
recorded neither a step nor any command, INIT among them, has a next state. -/
def Obligations.RaisingAFaultDoesNothingElse : Prop :=
  (∀ s t : State, step s = .next t → t.fault ≠ none →
    s.fault = none ∧ t = { s with commands := s.commands.tail, fault := t.fault }) ∧
  (∀ s : State, s.fault ≠ none → ∀ t : State, step s ≠ .next t ∧ ∀ i : Instr, exec i s ≠ .next t)

/-- R41: what an instance starts with. (The tables are arbitrary there: log entry 1.) -/
def Obligations.InstanceStart : Prop :=
  State.reset.init = false ∧ State.reset.fault = none ∧ State.reset.log = []

/-- R30: `init` is false at the start, true after INIT, never cleared, and a query made while it is false raises
`NotInitialized` with its command word and does nothing else. -/
def Obligations.InitFlag : Prop :=
  State.reset.init = false ∧
  (∀ s t : State, exec .init s = .next t → t.init = true) ∧
  (∀ s t : State, step s = .next t → s.init = true → t.init = true) ∧
  (∀ (s : State) (i : Instr), s.fault = none → s.init = false → i.isQuery = true →
    exec i s = .next { s with fault := some (.notInitialized (encode i)) })

/-! ### INIT -/

/-- R40, R162: INIT completes on every instance with no fault recorded; every piece of state after it; it logs nothing and
calls no collaborator. -/
def Obligations.InitSetsEveryReset : Prop :=
  ∀ s : State, s.fault = none → ∃ t, exec .init s = .next t ∧
    (∀ i, t.tlbAt i = ⟨0, 0, false⟩) ∧ (∀ v, t.ptAt v = ⟨0, false⟩) ∧
    (∀ l, t.lineAt l = ⟨⟨0, 0, false⟩, ⟨0, 0, false⟩, 0⟩) ∧
    t.init = true ∧ t.fault = s.fault ∧ t.log = s.log ∧ t.calls = s.calls ∧
    t.responses = s.responses ++ [⟨.initDone, 0⟩] ∧
    t.commands = s.commands ∧ t.frameAnswers = s.frameAnswers ∧ t.wordAnswers = s.wordAnswers

/-- R161: a later INIT, whatever commands ran in between, leaves the state of the first except for the log, which keeps
every event; on an instance that holds a fault it is not taken. (The model's own histories also keep growing: log
entry 5.) -/
def Obligations.LaterInitIsTheFirst : Prop :=
  ∀ (s t u : State) (is : List Instr), exec .init s = .next t → execAll is t = .next u →
    (u.fault = none → ∃ x, exec .init u = .next x ∧
      x.init = t.init ∧ x.tlb = t.tlb ∧ x.pt = t.pt ∧ x.cache = t.cache ∧ x.fault = t.fault ∧ x.log = u.log) ∧
    (u.fault ≠ none → ∀ x, exec .init u ≠ .next x)

/-- R163, R113: after INIT every slot and every way is invalid; whatever commands follow, the first translation of a page is
a page fault, and the first fetch in a line is a miss. -/
def Obligations.FirstTouchAfterInit : Prop :=
  ∀ (s t u : State) (is : List Instr), exec .init s = .next t → execAll is t = .next u → u.fault = none →
    ((∀ i, (t.tlbAt i).valid = false) ∧ (∀ v, (t.ptAt v).valid = false) ∧
      (∀ l w, ((t.lineAt l).way w).valid = false)) ∧
    (∀ va, vaLegal va = true →
      (∀ vb, Instr.xlate vb ∈ is → vaLegal vb = true → vpnOf vb ≠ vpnOf va) →
      ∃ x v, exec (.xlate va) u = .next x ∧ x.log = u.log ++ [⟨.addressFromPageFaultHandler, v⟩]) ∧
    (∀ pa, paInRange pa = true → (∀ pb, Instr.fetchb pb ∈ is → lineOf pb ≠ lineOf pa) →
      ∃ x v, exec (.fetchb pa) u = .next x ∧ x.log = u.log ++ [⟨.dataFromMemory, v⟩])

/-! ### XLATE -/

/-- R101: an address out of range is logged unchanged and answered with the sentinel; nothing else changes. -/
def Obligations.XlateOutOfRange : Prop :=
  ∀ (s : State) (va : Word32), s.Ready → va.extractLsb' 18 14 ≠ 0 →
    exec (.xlate va) s = .next { s with
      log := s.log ++ [⟨.illegalVirtual, va⟩]
      calls := s.calls ++ [.logEntry ⟨.illegalVirtual, va⟩]
      responses := s.responses ++ [⟨.illegalVirtual, 0xFFFFFFFF⟩] }

/-- R104: a TLB hit (valid, equal tag) answers the entry's frame; nothing is written but the event and the response. -/
def Obligations.XlateTlbHit : Prop :=
  ∀ (s : State) (va : Word32) (ppn : Ppn), s.Ready → vaLegal va = true →
    s.tlbAt (tlbIndexOf (vpnOf va)) = ⟨ppn, tlbTagOf (vpnOf va), true⟩ →
    exec (.xlate va) s = .next { s with
      log := s.log ++ [⟨.addressFromTlb, paOf ppn (vpoOf va)⟩]
      calls := s.calls ++ [.logEntry ⟨.addressFromTlb, paOf ppn (vpoOf va)⟩]
      responses := s.responses ++ [⟨.addressFromTlb, paOf ppn (vpoOf va)⟩] }

/-- R106, R108: a page-table hit fills the TLB entry the index selects, and writes nothing else but the event and the
response. -/
def Obligations.XlatePageTableHit : Prop :=
  ∀ (s : State) (va : Word32) (ppn : Ppn), s.Ready → vaLegal va = true →
    ((s.tlbAt (tlbIndexOf (vpnOf va))).valid = true → (s.tlbAt (tlbIndexOf (vpnOf va))).tag ≠ tlbTagOf (vpnOf va)) →
    s.ptAt (vpnOf va) = ⟨ppn, true⟩ →
    ∃ t, exec (.xlate va) s = .next t ∧
      (∀ j, t.tlbAt j =
        if j = tlbIndexOf (vpnOf va) then ⟨ppn, tlbTagOf (vpnOf va), true⟩ else s.tlbAt j) ∧
      t.pt = s.pt ∧ t.cache = s.cache ∧ t.init = s.init ∧ t.fault = s.fault ∧ t.commands = s.commands ∧
      t.frameAnswers = s.frameAnswers ∧ t.wordAnswers = s.wordAnswers ∧
      t.log = s.log ++ [⟨.addressFromPageTable, paOf ppn (vpoOf va)⟩] ∧
      t.calls = s.calls ++ [.logEntry ⟨.addressFromPageTable, paOf ppn (vpoOf va)⟩] ∧
      t.responses = s.responses ++ [⟨.addressFromPageTable, paOf ppn (vpoOf va)⟩]

/-- R107: the page-fault path calls the allocator once, with the page, and takes its answer, whatever it is, into the page
table and the TLB entry the index selects. -/
def Obligations.XlatePageFault : Prop :=
  ∀ (s : State) (va : Word32) (ppn : Ppn), s.Ready → vaLegal va = true →
    ((s.tlbAt (tlbIndexOf (vpnOf va))).valid = true → (s.tlbAt (tlbIndexOf (vpnOf va))).tag ≠ tlbTagOf (vpnOf va)) →
    (s.ptAt (vpnOf va)).valid = false → s.frameAnswer (vpnOf va) = ppn →
    ∃ t, exec (.xlate va) s = .next t ∧
      (∀ j, t.tlbAt j =
        if j = tlbIndexOf (vpnOf va) then ⟨ppn, tlbTagOf (vpnOf va), true⟩ else s.tlbAt j) ∧
      (∀ v, t.ptAt v = if v = vpnOf va then ⟨ppn, true⟩ else s.ptAt v) ∧
      t.cache = s.cache ∧ t.init = s.init ∧ t.fault = s.fault ∧ t.commands = s.commands ∧
      t.frameAnswers = s.frameAnswers.tail ∧ t.wordAnswers = s.wordAnswers ∧
      t.log = s.log ++ [⟨.addressFromPageFaultHandler, paOf ppn (vpoOf va)⟩] ∧
      t.calls = s.calls ++ [.allocFrame (vpnOf va) ppn,
        .logEntry ⟨.addressFromPageFaultHandler, paOf ppn (vpoOf va)⟩] ∧
      t.responses = s.responses ++ [⟨.addressFromPageFaultHandler, paOf ppn (vpoOf va)⟩]

/-- R110, with the stages of R103 and R105 in their order: XLATE on a ready instance completes with exactly one event and
one response of the same kind, and which of the four it is. -/
def Obligations.XlateClassification : Prop :=
  ∀ (s : State) (va : Word32), s.Ready →
    ∃ t k v d, exec (.xlate va) s = .next t ∧
      t.log = s.log ++ [⟨k, v⟩] ∧ t.responses = s.responses ++ [⟨k, d⟩] ∧
      (k = .illegalVirtual ∨ k = .addressFromTlb ∨ k = .addressFromPageTable ∨ k = .addressFromPageFaultHandler) ∧
      (k = .illegalVirtual ↔ vaLegal va = false) ∧
      (k = .addressFromTlb ↔ vaLegal va = true ∧ (s.tlbAt (tlbIndexOf (vpnOf va))).valid = true ∧
        (s.tlbAt (tlbIndexOf (vpnOf va))).tag = tlbTagOf (vpnOf va)) ∧
      (k = .addressFromPageTable ↔ vaLegal va = true ∧ ¬((s.tlbAt (tlbIndexOf (vpnOf va))).valid = true ∧
        (s.tlbAt (tlbIndexOf (vpnOf va))).tag = tlbTagOf (vpnOf va)) ∧ (s.ptAt (vpnOf va)).valid = true)

/-- What XLATE leaves unchanged, on every path: the cache, `init`, the command port, the fetcher's port, every TLB entry but
the one its index selects, every page-table entry but its page's, and both tables whole for an address out of range. -/
def Obligations.XlateFrame : Prop :=
  ∀ (s t : State) (va : Word32), exec (.xlate va) s = .next t →
    t.cache = s.cache ∧ t.init = s.init ∧ t.commands = s.commands ∧ t.wordAnswers = s.wordAnswers ∧
    (∀ j, j ≠ tlbIndexOf (vpnOf va) → t.tlbAt j = s.tlbAt j) ∧
    (∀ v, v ≠ vpnOf va → t.ptAt v = s.ptAt v) ∧
    (vaLegal va = false → t.tlb = s.tlb ∧ t.pt = s.pt ∧ t.frameAnswers = s.frameAnswers) ∧
    (s.init = true → t.fault = s.fault)

/-- R112: a repeat of a translation answers the same address and is a TLB hit. -/
def Obligations.RepeatTranslationHits : Prop :=
  ∀ (s : State) (va : Word32), s.Ready → vaLegal va = true →
    ∃ t u k pa, exec (.xlate va) s = .next t ∧ exec (.xlate va) t = .next u ∧
      t.responses = s.responses ++ [⟨k, pa⟩] ∧
      u.responses = t.responses ++ [⟨.addressFromTlb, pa⟩] ∧ u.log = t.log ++ [⟨.addressFromTlb, pa⟩]

/-- R115: two pages of one TLB index and different tags. -/
def Obligations.TlbConflict : Prop :=
  ∀ (s : State) (a b : Word32), s.fault = none → vaLegal a = true → vaLegal b = true →
    a.extractLsb' 9 4 = b.extractLsb' 9 4 → a.extractLsb' 13 5 ≠ b.extractLsb' 13 5 →
    ∃ t v₁ v₂ v₃, execAll [.init, .xlate a, .xlate b, .xlate a] s = .next t ∧
      t.log = s.log ++ [⟨.addressFromPageFaultHandler, v₁⟩, ⟨.addressFromPageFaultHandler, v₂⟩,
        ⟨.addressFromPageTable, v₃⟩] ∧
      (t.tlbAt (a.extractLsb' 9 4)).valid = true ∧ (t.tlbAt (a.extractLsb' 9 4)).tag = a.extractLsb' 13 5

/-- R71: between two INITs every translation of a page answers the same frame, the one its page fault received, whatever
commands run in between. -/
def Obligations.TranslationIsStable : Prop :=
  ∀ (s t u : State) (is : List Instr) (a b : Word32), s.Ready → s.TlbInPt →
    vaLegal a = true → vaLegal b = true → vpnOf a = vpnOf b →
    exec (.xlate a) s = .next t → Instr.init ∉ is → execAll is t = .next u → u.fault = none →
    ∃ x ppn k k', exec (.xlate b) u = .next x ∧
      t.responses = s.responses ++ [⟨k, paOf ppn (vpoOf a)⟩] ∧
      x.responses = u.responses ++ [⟨k', paOf ppn (vpoOf b)⟩] ∧
      k' ≠ .addressFromPageFaultHandler ∧
      (k = .addressFromPageFaultHandler → ppn = s.frameAnswer (vpnOf a))

/-- R25: since the last INIT, a page-table entry is valid iff the allocator was called for its page, and then it holds the
answer; a valid entry does not change until the next INIT. -/
def Obligations.PageTableValidIffLoaded : Prop :=
  (∀ (s t u : State) (is : List Instr), exec .init s = .next t → Instr.init ∉ is → execAll is t = .next u →
    ∀ v, ((u.ptAt v).valid = true ↔ ∃ ppn, ExternalCall.allocFrame v ppn ∈ u.calls.drop t.calls.length) ∧
      ((u.ptAt v).valid = true → ExternalCall.allocFrame v (u.ptAt v).ppn ∈ u.calls.drop t.calls.length)) ∧
  (∀ (s t : State) (i : Instr) (v : Vpn), exec i s = .next t → i ≠ .init → (s.ptAt v).valid = true →
    t.ptAt v = s.ptAt v)

/-! ### FETCHB -/

/-- R131: an address with a bit of 31:22 set raises `PhysicalOutOfRange` and does nothing else; every other address is
taken, with no other check. -/
def Obligations.FetchbRange : Prop :=
  ∀ (s : State) (pa : Word32), s.Ready →
    (pa.extractLsb' 22 10 ≠ 0 → exec (.fetchb pa) s = .next { s with fault := some (.physicalOutOfRange pa) }) ∧
    (pa.toNat < 0x00400000 → ∃ t, exec (.fetchb pa) s = .next t ∧ t.fault = none)

/-- R134, with the lookup of R133: a hit answers the byte of the way's block, way 0 before way 1, and writes nothing but the
event and the response. -/
def Obligations.FetchbHit : Prop :=
  ∀ (s : State) (pa : Word32) (w : WayNo), s.Ready → paInRange pa = true →
    ((s.lineAt (lineOf pa)).way w).valid = true → ((s.lineAt (lineOf pa)).way w).tag = ctagOf pa →
    (w = 1 → ¬((s.lineAt (lineOf pa)).way0.valid = true ∧ (s.lineAt (lineOf pa)).way0.tag = ctagOf pa)) →
    exec (.fetchb pa) s = .next { s with
      log := s.log ++
        [⟨.dataFromCache, byteValue (byteOf ((s.lineAt (lineOf pa)).way w).data (offOf pa))⟩]
      calls := s.calls ++
        [.logEntry ⟨.dataFromCache, byteValue (byteOf ((s.lineAt (lineOf pa)).way w).data (offOf pa))⟩]
      responses := s.responses ++
        [⟨.dataFromCache, byteValue (byteOf ((s.lineAt (lineOf pa)).way w).data (offOf pa))⟩] }

/-- R135: a miss calls the fetcher once, with the operand unchanged, writes the victim way and `older` of the line, and
answers the byte of the fetched word; the other way and every other line are unchanged. -/
def Obligations.FetchbMiss : Prop :=
  ∀ (s : State) (pa word : Word32) (w : WayNo), s.Ready → paInRange pa = true →
    (∀ u, ((s.lineAt (lineOf pa)).way u).valid = true → ((s.lineAt (lineOf pa)).way u).tag ≠ ctagOf pa) →
    s.wordAnswer pa = word → (s.lineAt (lineOf pa)).victim = w →
    ∃ t, exec (.fetchb pa) s = .next t ∧
      (t.lineAt (lineOf pa)).way w = ⟨word, ctagOf pa, true⟩ ∧
      (t.lineAt (lineOf pa)).way (1 - w) = (s.lineAt (lineOf pa)).way (1 - w) ∧
      (t.lineAt (lineOf pa)).older = 1 - w ∧
      (∀ l, l ≠ lineOf pa → t.lineAt l = s.lineAt l) ∧
      t.tlb = s.tlb ∧ t.pt = s.pt ∧ t.init = s.init ∧ t.fault = s.fault ∧ t.commands = s.commands ∧
      t.frameAnswers = s.frameAnswers ∧ t.wordAnswers = s.wordAnswers.tail ∧
      t.log = s.log ++ [⟨.dataFromMemory, byteValue (byteOf word (offOf pa))⟩] ∧
      t.calls = s.calls ++ [.memRead pa word, .logEntry ⟨.dataFromMemory, byteValue (byteOf word (offOf pa))⟩] ∧
      t.responses = s.responses ++ [⟨.dataFromMemory, byteValue (byteOf word (offOf pa))⟩]

/-- R136: the table of the replacement FSM, row by row, as the next `(way0.valid, way1.valid, older)` of an install; and a
line changes only by an install on a miss in that line. -/
def Obligations.ReplacementFsm : Prop :=
  (∀ (x : Line) (g : CacheTag) (d : Word32),
    ((x.way0.valid, x.way1.valid) = (false, false) → x.victim = 0 ∧
      ((x.install g d).way0.valid, (x.install g d).way1.valid, (x.install g d).older) = (true, false, 1)) ∧
    ((x.way0.valid, x.way1.valid) = (true, false) → x.victim = 1 ∧
      ((x.install g d).way0.valid, (x.install g d).way1.valid, (x.install g d).older) = (true, true, 0)) ∧
    ((x.way0.valid, x.way1.valid) = (false, true) → x.victim = 0 ∧
      ((x.install g d).way0.valid, (x.install g d).way1.valid, (x.install g d).older) = (true, true, 1)) ∧
    ((x.way0.valid, x.way1.valid, x.older) = (true, true, 0) → x.victim = 0 ∧
      ((x.install g d).way0.valid, (x.install g d).way1.valid, (x.install g d).older) = (true, true, 1)) ∧
    ((x.way0.valid, x.way1.valid, x.older) = (true, true, 1) → x.victim = 1 ∧
      ((x.install g d).way0.valid, (x.install g d).way1.valid, (x.install g d).older) = (true, true, 0))) ∧
  (∀ (s t : State) (i : Instr) (l : LineIndex), exec i s = .next t → i ≠ .init → t.lineAt l ≠ s.lineAt l →
    ∃ pa, i = .fetchb pa ∧ lineOf pa = l ∧
      (∀ u, ((s.lineAt l).way u).valid = true → ((s.lineAt l).way u).tag ≠ ctagOf pa) ∧
      t.lineAt l = (s.lineAt l).install (ctagOf pa) (s.wordAnswer pa))

/-- FETCHB on a ready instance and an address in range completes with one event and one response that are equal, a byte, and
of the kind of a hit exactly where a way of the line is valid with the address's tag (R130, R133, R86). -/
def Obligations.FetchbClassification : Prop :=
  ∀ (s : State) (pa : Word32), s.Ready → paInRange pa = true →
    ∃ t k v, exec (.fetchb pa) s = .next t ∧ t.log = s.log ++ [⟨k, v⟩] ∧ t.responses = s.responses ++ [⟨k, v⟩] ∧
      v.toNat < 256 ∧ (k = .dataFromCache ∨ k = .dataFromMemory) ∧
      (k = .dataFromCache ↔ ∃ w, ((s.lineAt (lineOf pa)).way w).valid = true ∧
        ((s.lineAt (lineOf pa)).way w).tag = ctagOf pa)

/-- What FETCHB leaves unchanged, on every path: the TLB, the page table, `init`, the command port, the allocator's port,
and every line but its own; a hit leaves the whole cache and the fetcher's port. -/
def Obligations.FetchbFrame : Prop :=
  ∀ (s t : State) (pa : Word32), exec (.fetchb pa) s = .next t →
    t.tlb = s.tlb ∧ t.pt = s.pt ∧ t.init = s.init ∧ t.commands = s.commands ∧ t.frameAnswers = s.frameAnswers ∧
    (∀ l, l ≠ lineOf pa → t.lineAt l = s.lineAt l) ∧
    (s.init = true → paInRange pa = true → t.fault = s.fault) ∧
    ((∃ w, ((s.lineAt (lineOf pa)).way w).valid = true ∧ ((s.lineAt (lineOf pa)).way w).tag = ctagOf pa) →
      t.cache = s.cache ∧ t.wordAnswers = s.wordAnswers)

/-- From R137: two addresses with the same tag and line, whatever their bits 8:7, share a way: after one is fetched the
other hits and answers the byte of the same word, at its own offset. After a hit that word is the block of the way that hit
(way 0 before way 1, R133); after a miss, which is where no valid way has the tag, it is the fetcher's answer for the first
address. There is no third case. -/
def Obligations.AliasedAddressesShareAWay : Prop :=
  ∀ (s : State) (p q : Word32), s.Ready → paInRange p = true → paInRange q = true →
    ctagOf p = ctagOf q → lineOf p = lineOf q →
    ∃ t u k word, exec (.fetchb p) s = .next t ∧ exec (.fetchb q) t = .next u ∧
      t.responses = s.responses ++ [⟨k, byteValue (byteOf word (offOf p))⟩] ∧
      u.responses = t.responses ++ [⟨.dataFromCache, byteValue (byteOf word (offOf q))⟩] ∧
      ((k = .dataFromCache ∧ ∃ w, ((s.lineAt (lineOf p)).way w).valid = true ∧
          ((s.lineAt (lineOf p)).way w).tag = ctagOf p ∧
          (w = 1 → ¬((s.lineAt (lineOf p)).way0.valid = true ∧ (s.lineAt (lineOf p)).way0.tag = ctagOf p)) ∧
          word = ((s.lineAt (lineOf p)).way w).data) ∨
        (k = .dataFromMemory ∧ word = s.wordAnswer p ∧
          ∀ w, ((s.lineAt (lineOf p)).way w).valid = true → ((s.lineAt (lineOf p)).way w).tag ≠ ctagOf p))

/-- R139: a hit does not protect a way: in a line with both ways valid, a hit on either tag and then a miss evicts the way
`older` named before the hit. -/
def Obligations.ReplacementIsFifo : Prop :=
  ∀ (s : State) (p q : Word32), s.Ready → paInRange p = true → paInRange q = true → lineOf p = lineOf q →
    (s.lineAt (lineOf p)).way0.valid = true → (s.lineAt (lineOf p)).way1.valid = true →
    (∃ w, ((s.lineAt (lineOf p)).way w).tag = ctagOf p) →
    (∀ w, ((s.lineAt (lineOf p)).way w).tag ≠ ctagOf q) →
    ∃ t u word, exec (.fetchb p) s = .next t ∧ exec (.fetchb q) t = .next u ∧
      t.lineAt (lineOf p) = s.lineAt (lineOf p) ∧
      (u.lineAt (lineOf p)).way (s.lineAt (lineOf p)).older = ⟨word, ctagOf q, true⟩

/-- R140: three distinct tags in one line, from INIT: all miss, they go to ways 0, 1, 0, and the line is left with the
third tag in way 0, the second in way 1 and `older` 1. -/
def Obligations.ThirdTagEvictsTheFirst : Prop :=
  ∀ (s : State) (a b c : Word32), s.fault = none →
    paInRange a = true → paInRange b = true → paInRange c = true →
    lineOf a = lineOf b → lineOf b = lineOf c →
    ctagOf a ≠ ctagOf b → ctagOf b ≠ ctagOf c → ctagOf a ≠ ctagOf c →
    ∃ t v₁ v₂ v₃ d₀ d₁, execAll [.init, .fetchb a, .fetchb b, .fetchb c] s = .next t ∧
      t.log = s.log ++ [⟨.dataFromMemory, v₁⟩, ⟨.dataFromMemory, v₂⟩, ⟨.dataFromMemory, v₃⟩] ∧
      t.lineAt (lineOf a) = ⟨⟨d₀, ctagOf c, true⟩, ⟨d₁, ctagOf b, true⟩, 1⟩

/-- The round trip of spec/95_test_vectors.md S6, from R55, R56 and R135: where the fetcher's answer is backing memory's
word, a fetch through a cold line answers memory's byte. -/
def Obligations.ColdFetchReturnsMemory : Prop :=
  ∀ (mem : Word32 → Byte) (s : State) (pa : Word32), s.Ready → paInRange pa = true →
    (∀ u, ((s.lineAt (lineOf pa)).way u).valid = true → ((s.lineAt (lineOf pa)).way u).tag ≠ ctagOf pa) →
    AnswersFrom mem s pa →
    ∃ t, exec (.fetchb pa) s = .next t ∧ t.responses = s.responses ++ [⟨.dataFromMemory, byteValue (mem pa)⟩]

/-- From R68: once fetched, an address answers the same byte, as a hit, whatever the fetcher would answer now, after any
commands but INIT and fetches in its line. -/
def Obligations.CachedByteIsKept : Prop :=
  ∀ (s t u : State) (is : List Instr) (pa : Word32), s.Ready → paInRange pa = true →
    exec (.fetchb pa) s = .next t → Instr.init ∉ is → (∀ q, Instr.fetchb q ∈ is → lineOf q ≠ lineOf pa) →
    execAll is t = .next u → u.fault = none →
    ∃ x k v, exec (.fetchb pa) u = .next x ∧ t.responses = s.responses ++ [⟨k, v⟩] ∧
      x.responses = u.responses ++ [⟨.dataFromCache, v⟩] ∧ x.wordAnswers = u.wordAnswers

/-! ### The whole machine -/

/-- R142: XLATE neither reads nor writes the cache, and FETCHB neither reads nor writes the TLB and the page table: with
other contents there, each does the same and leaves those contents. -/
def Obligations.PipelinesAreIndependent : Prop :=
  (∀ (s t : State) (va : Word32) (c : Vector Line 32), exec (.xlate va) s = .next t →
    exec (.xlate va) { s with cache := c } = .next { t with cache := c }) ∧
  (∀ (s t : State) (pa : Word32) (a : Vector TlbEntry 16) (b : Vector PtEntry 512), exec (.fetchb pa) s = .next t →
    exec (.fetchb pa) { s with tlb := a, pt := b } = .next { t with tlb := a, pt := b })

/-- From R23, R40 and R41: the tag, frame and data of invalid entries, `older` of a line that is not full, and the whole
tables before the first INIT cannot be told apart by any step: states that differ only there step to such states. -/
def Obligations.UnobservableFieldsStaySo : Prop :=
  ∀ s t : State, s.Same t → SameOutcome (step s) (step t)

/-- Of log entry 1: the tables chosen for the start of an instance (R41 calls them arbitrary) cannot be told apart from any
other. -/
def Obligations.ResetTablesAreUnobservable : Prop :=
  ∀ (a : Vector TlbEntry 16) (b : Vector PtEntry 512) (c : Vector Line 32),
    State.reset.Same { State.reset with tlb := a, pt := b, cache := c }

/-- R38: each TLB mapping is the page table's after INIT, and every step keeps that. -/
def Obligations.StepKeepsTlbInPageTable : Prop :=
  (∀ s t : State, exec .init s = .next t → t.TlbInPt) ∧ (∀ s t : State, s.TlbInPt → step s = .next t → t.TlbInPt)

/-- R28: at most one valid way of a line holds a tag after INIT, and every step keeps that. -/
def Obligations.StepKeepsWaysDistinct : Prop :=
  (∀ s t : State, exec .init s = .next t → t.WaysDistinct) ∧
  (∀ s t : State, s.WaysDistinct → step s = .next t → t.WaysDistinct)

/-- R39: every line is `(0,0,0)` after INIT, and every step keeps every line in the four reachable states. -/
def Obligations.StepKeepsLinesReachable : Prop :=
  (∀ s t : State, exec .init s = .next t →
    ∀ l, ((t.lineAt l).way0.valid, (t.lineAt l).way1.valid, (t.lineAt l).older) = (false, false, 0)) ∧
  (∀ s t : State, s.LinesReachable → step s = .next t → t.LinesReachable)

/-- From R25, R135: every step keeps that a valid page-table entry holds an answer of the allocator for its page, and a
valid way a word the fetcher answered for an address of its line and tag. -/
def Obligations.StepKeepsTablesFetched : Prop :=
  ∀ s t : State, s.PtFromAllocator → s.CacheFromFetcher → step s = .next t → t.PtFromAllocator ∧ t.CacheFromFetcher

/-- From R33, R87 and R90: every step keeps that the log is what the logger was sent, in order, and holds no `INIT_DONE`;
and it only appends to the log. -/
def Obligations.StepKeepsLogSound : Prop :=
  ∀ s t : State, s.LogSound → step s = .next t → t.LogSound ∧ s.log <+: t.log

/-- The invariants hold at the start of an instance. The tables and histories there are the model's choice (log entries 1, 5); that a step
keeps the invariants does not rest on it. -/
def Obligations.SoundAtReset : Prop :=
  State.reset.TlbInPt ∧ State.reset.WaysDistinct ∧ State.reset.LinesReachable ∧
  State.reset.PtFromAllocator ∧ State.reset.CacheFromFetcher ∧ State.reset.LogSound

/-- R66: the collaborator calls of one command that raises no fault, in their order: none for INIT; `AllocFrame` and then
`Log` on the page-fault path; `MemRead` and then `Log` on a miss; `Log` alone on every other path. -/
def Obligations.CallOrder : Prop :=
  ∀ (s t : State) (i : Instr), exec i s = .next t → t.fault = none →
    (i = .init → t.calls = s.calls) ∧
    (∀ va, i = .xlate va → ∃ k v, t.log = s.log ++ [⟨k, v⟩] ∧
      (k = .addressFromPageFaultHandler →
        t.calls = s.calls ++ [.allocFrame (vpnOf va) (s.frameAnswer (vpnOf va)), .logEntry ⟨k, v⟩]) ∧
      (k ≠ .addressFromPageFaultHandler → t.calls = s.calls ++ [.logEntry ⟨k, v⟩])) ∧
    (∀ pa, i = .fetchb pa → ∃ k v, t.log = s.log ++ [⟨k, v⟩] ∧
      (k = .dataFromMemory → t.calls = s.calls ++ [.memRead pa (s.wordAnswer pa), .logEntry ⟨k, v⟩]) ∧
      (k ≠ .dataFromMemory → t.calls = s.calls ++ [.logEntry ⟨k, v⟩]))

/-- From R86: a command that raises no fault gives exactly one response, of the kind of its event (INIT: (7, 0)), with the
event's value but for an address out of range, whose response is the sentinel; a command that raises one gives none. -/
def Obligations.OneResponseForEachCommand : Prop :=
  ∀ (s t : State) (i : Instr), exec i s = .next t →
    (t.fault ≠ none → t.responses = s.responses) ∧
    (t.fault = none → ∃ r, t.responses = s.responses ++ [r] ∧
      (i = .init → r = ⟨.initDone, 0⟩ ∧ t.log = s.log) ∧
      (i.isQuery = true → ∃ e, t.log = s.log ++ [e] ∧ r.kind = e.kind ∧
        (e.kind = .illegalVirtual → r.data = 0xFFFFFFFF) ∧ (e.kind ≠ .illegalVirtual → r.data = e.value)))

/-- From R87: the codes of the kinds, one for each, none of them 6. -/
def Obligations.KindCodes : Prop :=
  Kind.illegalVirtual.code = 0 ∧ Kind.addressFromTlb.code = 1 ∧ Kind.addressFromPageTable.code = 2 ∧
  Kind.addressFromPageFaultHandler.code = 3 ∧ Kind.dataFromCache.code = 4 ∧ Kind.dataFromMemory.code = 5 ∧
  Kind.initDone.code = 7 ∧ (∀ k : Kind, Kind.ofCode k.code = some k) ∧ Kind.ofCode 6 = none

/-- From R65: the steps of an instance that was offered the words of some commands do what those commands do one after
another, each on the state the one before left, where they lead to a next state. That words wait at the port, oldest first,
and a step takes one is the model's choice (log entry 2). -/
def Obligations.StepsRunTheOfferedCommands : Prop :=
  ∀ (is : List Instr) (s t : State) (ws : List CmdWord),
    execAll is { s with commands := ws } = .next t →
    Host.Core.run Sys2Proof.core is.length { s with commands := is.map encode ++ ws } = .next t

/-- From R92 and R197: the host's two-command byte load completes on a ready instance with no fault; for a legal address it
is an XLATE and a FETCHB, for one out of range the XLATE alone; the sentinel given to FETCHB would raise
`PhysicalOutOfRange`. -/
def Obligations.LoadByteCompletes : Prop :=
  ∀ (s : State) (va : Word32), s.Ready →
    (vaLegal va = true → ∃ t k pa u k' v, exec (.xlate va) s = .next t ∧
      t.responses = s.responses ++ [⟨k, pa⟩] ∧ paInRange pa = true ∧ exec (.fetchb pa) t = .next u ∧
      loadByte va s = .next u ∧ u.fault = none ∧ u.responses = s.responses ++ [⟨k, pa⟩, ⟨k', byteValue v⟩]) ∧
    (vaLegal va = false → ∃ t, loadByte va s = .next t ∧ t.fault = none ∧
      t.responses = s.responses ++ [⟨.illegalVirtual, 0xFFFFFFFF⟩]) ∧
    exec (.fetchb 0xFFFFFFFF) s = .next { s with fault := some (.physicalOutOfRange 0xFFFFFFFF) }

/-- From R91: the assembler emits `op << 56 | imm[31:0]` for a number of -2^31 to 2^32 - 1, a negative one as its
two's-complement pattern, and refuses every other number. -/
def Obligations.AssemblerEmitsTheWord : Prop :=
  SourceCommand.init.assemble = some 0 ∧
  (∀ imm : Int, -2 ^ 31 ≤ imm → imm < 2 ^ 32 →
    (SourceCommand.xlate imm).assemble = some (BitVec.ofNat 64 (1 * 2 ^ 56 + (imm % 2 ^ 32).toNat)) ∧
    (SourceCommand.fetchb imm).assemble = some (BitVec.ofNat 64 (2 * 2 ^ 56 + (imm % 2 ^ 32).toNat))) ∧
  (∀ imm : Int, imm < -2 ^ 31 ∨ 2 ^ 32 ≤ imm →
    (SourceCommand.xlate imm).assemble = none ∧ (SourceCommand.fetchb imm).assemble = none)
end

