-- ==== Sys2Proof/Laws/State.lean ====
section
/-! SUPPORT. What each update of the state does to each field, true by rfl, and reads after writes of the three tables.
Every simp lemma here pushes a field or a table read through an update. -/

namespace Sys2Proof.Machine

variable (s : State)

/-! ### `setTlb` -/

@[simp] theorem State.setTlb_init (i : TlbIndex) (e : TlbEntry) : (s.setTlb i e).init = s.init := rfl
@[simp] theorem State.setTlb_pt (i : TlbIndex) (e : TlbEntry) : (s.setTlb i e).pt = s.pt := rfl
@[simp] theorem State.setTlb_cache (i : TlbIndex) (e : TlbEntry) : (s.setTlb i e).cache = s.cache := rfl
@[simp] theorem State.setTlb_fault (i : TlbIndex) (e : TlbEntry) : (s.setTlb i e).fault = s.fault := rfl
@[simp] theorem State.setTlb_log (i : TlbIndex) (e : TlbEntry) : (s.setTlb i e).log = s.log := rfl
@[simp] theorem State.setTlb_commands (i : TlbIndex) (e : TlbEntry) : (s.setTlb i e).commands = s.commands := rfl
@[simp] theorem State.setTlb_frameAnswers (i : TlbIndex) (e : TlbEntry) : (s.setTlb i e).frameAnswers = s.frameAnswers := rfl
@[simp] theorem State.setTlb_wordAnswers (i : TlbIndex) (e : TlbEntry) : (s.setTlb i e).wordAnswers = s.wordAnswers := rfl
@[simp] theorem State.setTlb_responses (i : TlbIndex) (e : TlbEntry) : (s.setTlb i e).responses = s.responses := rfl
@[simp] theorem State.setTlb_calls (i : TlbIndex) (e : TlbEntry) : (s.setTlb i e).calls = s.calls := rfl
@[simp] theorem State.setTlb_ptAt (i : TlbIndex) (e : TlbEntry) (v' : Vpn) : (s.setTlb i e).ptAt v' = s.ptAt v' := rfl
@[simp] theorem State.setTlb_lineAt (i : TlbIndex) (e : TlbEntry) (l' : LineIndex) : (s.setTlb i e).lineAt l' = s.lineAt l' := rfl

/-! ### `setPt` -/

@[simp] theorem State.setPt_init (v : Vpn) (e : PtEntry) : (s.setPt v e).init = s.init := rfl
@[simp] theorem State.setPt_tlb (v : Vpn) (e : PtEntry) : (s.setPt v e).tlb = s.tlb := rfl
@[simp] theorem State.setPt_cache (v : Vpn) (e : PtEntry) : (s.setPt v e).cache = s.cache := rfl
@[simp] theorem State.setPt_fault (v : Vpn) (e : PtEntry) : (s.setPt v e).fault = s.fault := rfl
@[simp] theorem State.setPt_log (v : Vpn) (e : PtEntry) : (s.setPt v e).log = s.log := rfl
@[simp] theorem State.setPt_commands (v : Vpn) (e : PtEntry) : (s.setPt v e).commands = s.commands := rfl
@[simp] theorem State.setPt_frameAnswers (v : Vpn) (e : PtEntry) : (s.setPt v e).frameAnswers = s.frameAnswers := rfl
@[simp] theorem State.setPt_wordAnswers (v : Vpn) (e : PtEntry) : (s.setPt v e).wordAnswers = s.wordAnswers := rfl
@[simp] theorem State.setPt_responses (v : Vpn) (e : PtEntry) : (s.setPt v e).responses = s.responses := rfl
@[simp] theorem State.setPt_calls (v : Vpn) (e : PtEntry) : (s.setPt v e).calls = s.calls := rfl
@[simp] theorem State.setPt_tlbAt (v : Vpn) (e : PtEntry) (i' : TlbIndex) : (s.setPt v e).tlbAt i' = s.tlbAt i' := rfl
@[simp] theorem State.setPt_lineAt (v : Vpn) (e : PtEntry) (l' : LineIndex) : (s.setPt v e).lineAt l' = s.lineAt l' := rfl

/-! ### `setLine` -/

@[simp] theorem State.setLine_init (l : LineIndex) (x : Line) : (s.setLine l x).init = s.init := rfl
@[simp] theorem State.setLine_tlb (l : LineIndex) (x : Line) : (s.setLine l x).tlb = s.tlb := rfl
@[simp] theorem State.setLine_pt (l : LineIndex) (x : Line) : (s.setLine l x).pt = s.pt := rfl
@[simp] theorem State.setLine_fault (l : LineIndex) (x : Line) : (s.setLine l x).fault = s.fault := rfl
@[simp] theorem State.setLine_log (l : LineIndex) (x : Line) : (s.setLine l x).log = s.log := rfl
@[simp] theorem State.setLine_commands (l : LineIndex) (x : Line) : (s.setLine l x).commands = s.commands := rfl
@[simp] theorem State.setLine_frameAnswers (l : LineIndex) (x : Line) : (s.setLine l x).frameAnswers = s.frameAnswers := rfl
@[simp] theorem State.setLine_wordAnswers (l : LineIndex) (x : Line) : (s.setLine l x).wordAnswers = s.wordAnswers := rfl
@[simp] theorem State.setLine_responses (l : LineIndex) (x : Line) : (s.setLine l x).responses = s.responses := rfl
@[simp] theorem State.setLine_calls (l : LineIndex) (x : Line) : (s.setLine l x).calls = s.calls := rfl
@[simp] theorem State.setLine_tlbAt (l : LineIndex) (x : Line) (i' : TlbIndex) : (s.setLine l x).tlbAt i' = s.tlbAt i' := rfl
@[simp] theorem State.setLine_ptAt (l : LineIndex) (x : Line) (v' : Vpn) : (s.setLine l x).ptAt v' = s.ptAt v' := rfl

/-! ### `takeFrame` -/

@[simp] theorem State.takeFrame_init (v : Vpn) : (s.takeFrame v).init = s.init := rfl
@[simp] theorem State.takeFrame_tlb (v : Vpn) : (s.takeFrame v).tlb = s.tlb := rfl
@[simp] theorem State.takeFrame_pt (v : Vpn) : (s.takeFrame v).pt = s.pt := rfl
@[simp] theorem State.takeFrame_cache (v : Vpn) : (s.takeFrame v).cache = s.cache := rfl
@[simp] theorem State.takeFrame_fault (v : Vpn) : (s.takeFrame v).fault = s.fault := rfl
@[simp] theorem State.takeFrame_log (v : Vpn) : (s.takeFrame v).log = s.log := rfl
@[simp] theorem State.takeFrame_commands (v : Vpn) : (s.takeFrame v).commands = s.commands := rfl
@[simp] theorem State.takeFrame_frameAnswers (v : Vpn) : (s.takeFrame v).frameAnswers = s.frameAnswers.tail := rfl
@[simp] theorem State.takeFrame_wordAnswers (v : Vpn) : (s.takeFrame v).wordAnswers = s.wordAnswers := rfl
@[simp] theorem State.takeFrame_responses (v : Vpn) : (s.takeFrame v).responses = s.responses := rfl
@[simp] theorem State.takeFrame_calls (v : Vpn) : (s.takeFrame v).calls = s.calls ++ [.allocFrame v (s.frameAnswer v)] := rfl
@[simp] theorem State.takeFrame_tlbAt (v : Vpn) (i' : TlbIndex) : (s.takeFrame v).tlbAt i' = s.tlbAt i' := rfl
@[simp] theorem State.takeFrame_ptAt (v : Vpn) (v' : Vpn) : (s.takeFrame v).ptAt v' = s.ptAt v' := rfl
@[simp] theorem State.takeFrame_lineAt (v : Vpn) (l' : LineIndex) : (s.takeFrame v).lineAt l' = s.lineAt l' := rfl

/-! ### `takeWord` -/

@[simp] theorem State.takeWord_init (pa : Word32) : (s.takeWord pa).init = s.init := rfl
@[simp] theorem State.takeWord_tlb (pa : Word32) : (s.takeWord pa).tlb = s.tlb := rfl
@[simp] theorem State.takeWord_pt (pa : Word32) : (s.takeWord pa).pt = s.pt := rfl
@[simp] theorem State.takeWord_cache (pa : Word32) : (s.takeWord pa).cache = s.cache := rfl
@[simp] theorem State.takeWord_fault (pa : Word32) : (s.takeWord pa).fault = s.fault := rfl
@[simp] theorem State.takeWord_log (pa : Word32) : (s.takeWord pa).log = s.log := rfl
@[simp] theorem State.takeWord_commands (pa : Word32) : (s.takeWord pa).commands = s.commands := rfl
@[simp] theorem State.takeWord_frameAnswers (pa : Word32) : (s.takeWord pa).frameAnswers = s.frameAnswers := rfl
@[simp] theorem State.takeWord_wordAnswers (pa : Word32) : (s.takeWord pa).wordAnswers = s.wordAnswers.tail := rfl
@[simp] theorem State.takeWord_responses (pa : Word32) : (s.takeWord pa).responses = s.responses := rfl
@[simp] theorem State.takeWord_calls (pa : Word32) : (s.takeWord pa).calls = s.calls ++ [.memRead pa (s.wordAnswer pa)] := rfl
@[simp] theorem State.takeWord_tlbAt (pa : Word32) (i' : TlbIndex) : (s.takeWord pa).tlbAt i' = s.tlbAt i' := rfl
@[simp] theorem State.takeWord_ptAt (pa : Word32) (v' : Vpn) : (s.takeWord pa).ptAt v' = s.ptAt v' := rfl
@[simp] theorem State.takeWord_lineAt (pa : Word32) (l' : LineIndex) : (s.takeWord pa).lineAt l' = s.lineAt l' := rfl

/-! ### `logEvent` -/

@[simp] theorem State.logEvent_init (k : Kind) (d : Word32) : (s.logEvent k d).init = s.init := rfl
@[simp] theorem State.logEvent_tlb (k : Kind) (d : Word32) : (s.logEvent k d).tlb = s.tlb := rfl
@[simp] theorem State.logEvent_pt (k : Kind) (d : Word32) : (s.logEvent k d).pt = s.pt := rfl
@[simp] theorem State.logEvent_cache (k : Kind) (d : Word32) : (s.logEvent k d).cache = s.cache := rfl
@[simp] theorem State.logEvent_fault (k : Kind) (d : Word32) : (s.logEvent k d).fault = s.fault := rfl
@[simp] theorem State.logEvent_log (k : Kind) (d : Word32) : (s.logEvent k d).log = s.log ++ [⟨k, d⟩] := rfl
@[simp] theorem State.logEvent_commands (k : Kind) (d : Word32) : (s.logEvent k d).commands = s.commands := rfl
@[simp] theorem State.logEvent_frameAnswers (k : Kind) (d : Word32) : (s.logEvent k d).frameAnswers = s.frameAnswers := rfl
@[simp] theorem State.logEvent_wordAnswers (k : Kind) (d : Word32) : (s.logEvent k d).wordAnswers = s.wordAnswers := rfl
@[simp] theorem State.logEvent_responses (k : Kind) (d : Word32) : (s.logEvent k d).responses = s.responses := rfl
@[simp] theorem State.logEvent_calls (k : Kind) (d : Word32) : (s.logEvent k d).calls = s.calls ++ [.logEntry ⟨k, d⟩] := rfl
@[simp] theorem State.logEvent_tlbAt (k : Kind) (d : Word32) (i' : TlbIndex) : (s.logEvent k d).tlbAt i' = s.tlbAt i' := rfl
@[simp] theorem State.logEvent_ptAt (k : Kind) (d : Word32) (v' : Vpn) : (s.logEvent k d).ptAt v' = s.ptAt v' := rfl
@[simp] theorem State.logEvent_lineAt (k : Kind) (d : Word32) (l' : LineIndex) : (s.logEvent k d).lineAt l' = s.lineAt l' := rfl

/-! ### `respond` -/

@[simp] theorem State.respond_init (k : Kind) (d : Word32) : (s.respond k d).init = s.init := rfl
@[simp] theorem State.respond_tlb (k : Kind) (d : Word32) : (s.respond k d).tlb = s.tlb := rfl
@[simp] theorem State.respond_pt (k : Kind) (d : Word32) : (s.respond k d).pt = s.pt := rfl
@[simp] theorem State.respond_cache (k : Kind) (d : Word32) : (s.respond k d).cache = s.cache := rfl
@[simp] theorem State.respond_fault (k : Kind) (d : Word32) : (s.respond k d).fault = s.fault := rfl
@[simp] theorem State.respond_log (k : Kind) (d : Word32) : (s.respond k d).log = s.log := rfl
@[simp] theorem State.respond_commands (k : Kind) (d : Word32) : (s.respond k d).commands = s.commands := rfl
@[simp] theorem State.respond_frameAnswers (k : Kind) (d : Word32) : (s.respond k d).frameAnswers = s.frameAnswers := rfl
@[simp] theorem State.respond_wordAnswers (k : Kind) (d : Word32) : (s.respond k d).wordAnswers = s.wordAnswers := rfl
@[simp] theorem State.respond_responses (k : Kind) (d : Word32) : (s.respond k d).responses = s.responses ++ [⟨k, d⟩] := rfl
@[simp] theorem State.respond_calls (k : Kind) (d : Word32) : (s.respond k d).calls = s.calls := rfl
@[simp] theorem State.respond_tlbAt (k : Kind) (d : Word32) (i' : TlbIndex) : (s.respond k d).tlbAt i' = s.tlbAt i' := rfl
@[simp] theorem State.respond_ptAt (k : Kind) (d : Word32) (v' : Vpn) : (s.respond k d).ptAt v' = s.ptAt v' := rfl
@[simp] theorem State.respond_lineAt (k : Kind) (d : Word32) (l' : LineIndex) : (s.respond k d).lineAt l' = s.lineAt l' := rfl

/-! ### `clearTables` -/

@[simp] theorem State.clearTables_init : (s.clearTables).init = s.init := rfl
@[simp] theorem State.clearTables_fault : (s.clearTables).fault = s.fault := rfl
@[simp] theorem State.clearTables_log : (s.clearTables).log = s.log := rfl
@[simp] theorem State.clearTables_commands : (s.clearTables).commands = s.commands := rfl
@[simp] theorem State.clearTables_frameAnswers : (s.clearTables).frameAnswers = s.frameAnswers := rfl
@[simp] theorem State.clearTables_wordAnswers : (s.clearTables).wordAnswers = s.wordAnswers := rfl
@[simp] theorem State.clearTables_responses : (s.clearTables).responses = s.responses := rfl
@[simp] theorem State.clearTables_calls : (s.clearTables).calls = s.calls := rfl

/-! ### Reads after writes of the tables -/

theorem State.tlbAt_setTlb (i : TlbIndex) (e : TlbEntry) (j : TlbIndex) :
    (s.setTlb i e).tlbAt j = if i = j then e else s.tlbAt j := by
  simp [State.tlbAt, State.setTlb, Vector.getElem_set, BitVec.toNat_inj]

theorem State.ptAt_setPt (v : Vpn) (e : PtEntry) (u : Vpn) :
    (s.setPt v e).ptAt u = if v = u then e else s.ptAt u := by
  simp [State.ptAt, State.setPt, Vector.getElem_set, BitVec.toNat_inj]

theorem State.lineAt_setLine (l : LineIndex) (x : Line) (m : LineIndex) :
    (s.setLine l x).lineAt m = if l = m then x else s.lineAt m := by
  simp [State.lineAt, State.setLine, Vector.getElem_set, BitVec.toNat_inj]

@[simp] theorem State.tlbAt_setTlb_self (i : TlbIndex) (e : TlbEntry) : (s.setTlb i e).tlbAt i = e := by
  simp [State.tlbAt_setTlb]

@[simp] theorem State.ptAt_setPt_self (v : Vpn) (e : PtEntry) : (s.setPt v e).ptAt v = e := by
  simp [State.ptAt_setPt]

@[simp] theorem State.lineAt_setLine_self (l : LineIndex) (x : Line) : (s.setLine l x).lineAt l = x := by
  simp [State.lineAt_setLine]

@[simp] theorem State.clearTables_tlbAt (i : TlbIndex) : s.clearTables.tlbAt i = .cleared := by
  simp [State.tlbAt, State.clearTables]

@[simp] theorem State.clearTables_ptAt (v : Vpn) : s.clearTables.ptAt v = .cleared := by
  simp [State.ptAt, State.clearTables]

@[simp] theorem State.clearTables_lineAt (l : LineIndex) : s.clearTables.lineAt l = .cleared := by
  simp [State.lineAt, State.clearTables]

/-! ### The ways of a line -/

@[simp] theorem Line.way_zero (x : Line) : x.way 0#1 = x.way0 := rfl
@[simp] theorem Line.way_one (x : Line) : x.way 1#1 = x.way1 := rfl

/-- A way number is 0 or 1. -/
theorem WayNo.zero_or_one (w : WayNo) : w = 0 ∨ w = 1 := by
  revert w; decide

@[simp] theorem Line.setWay_older (x : Line) (w : WayNo) (y : Way) : (x.setWay w y).older = x.older := by
  unfold Line.setWay; split <;> rfl

@[simp] theorem Line.way_setWay_self (x : Line) (w : WayNo) (y : Way) : (x.setWay w y).way w = y := by
  obtain rfl | rfl := WayNo.zero_or_one w <;> rfl

theorem Line.way_setWay (x : Line) (w : WayNo) (y : Way) (u : WayNo) :
    (x.setWay w y).way u = if w = u then y else x.way u := by
  obtain rfl | rfl := WayNo.zero_or_one w <;> obtain rfl | rfl := WayNo.zero_or_one u <;> rfl

end Sys2Proof.Machine
end

