-- ==== Sys2Proof/Laws/Ops.lean ====
section
/-! SUPPORT. One lemma for each shared operation that says once what it can do. -/

namespace Sys2Proof.Machine

variable (s : State)

/-! ### `finish`, `translated`, `fetched`, `tlbFill` -/

@[simp] theorem State.finish_def (k : Kind) (v d : Word32) : s.finish k v d = (s.logEvent k v).respond k d := rfl

theorem State.translated_def (k : Kind) (p : Ppn) (va : Word32) :
    s.translated k p va = s.finish k (paOf p (vpoOf va)) (paOf p (vpoOf va)) := rfl

theorem State.fetched_def (k : Kind) (w pa : Word32) :
    s.fetched k w pa = s.finish k (byteValue (byteOf w (offOf pa))) (byteValue (byteOf w (offOf pa))) := rfl

/-! ### Raising a fault -/

/-- Raising keeps the first fault and changes no other field (R174). -/
theorem State.raise_eq (f : Fault) : s.raise f = { s with fault := some (s.fault.getD f) } := by
  cases s; rename_i fl _ _ _ _ _ _; cases fl <;> rfl

/-- Raising where no fault is recorded. -/
theorem State.raise_running (h : s.fault = none) (f : Fault) : s.raise f = { s with fault := some f } := by
  simp [State.raise_eq, h]

/-! ### The checks every command makes first -/

/-- All that `takeCommand` can answer: a stop exactly where a fault is recorded. -/
theorem takeCommand_eq_next {body : State → State} {t : State} :
    takeCommand s body = .next t ↔ s.fault = none ∧ body s = t := by
  cases h : s.fault <;> simp [takeCommand, h]

theorem takeCommand_eq_fault {body : State → State} {f : Fault} :
    takeCommand s body = .fault f ↔ s.fault = some f := by
  cases h : s.fault <;> simp [takeCommand, h]

theorem takeCommand_ne_refused {body : State → State} {r : Refusal} : takeCommand s body ≠ .refused r := by
  cases h : s.fault <;> simp [takeCommand, h]

theorem takeCommand_running (h : s.fault = none) (body : State → State) : takeCommand s body = .next (body s) := by
  simp [takeCommand, h]

/-- All that `takeQuery` can answer with a next state: before INIT the fault, after it the body. -/
theorem takeQuery_eq_next {cmd : CmdWord} {body : State → State} {t : State} :
    takeQuery cmd s body = .next t ↔ s.fault = none ∧
      ((s.init = false ∧ t = { s with fault := some (.notInitialized cmd) }) ∨ (s.init = true ∧ t = body s)) := by
  unfold takeQuery
  rw [takeCommand_eq_next]
  constructor
  · rintro ⟨h, ht⟩
    cases hi : s.init <;> simp_all [State.raise_running]
  · rintro ⟨h, ⟨hi, rfl⟩ | ⟨hi, rfl⟩⟩ <;> simp_all [State.raise_running]

theorem takeQuery_ready {cmd : CmdWord} (h : s.Ready) (body : State → State) :
    takeQuery cmd s body = .next (body s) := (takeQuery_eq_next s).2 ⟨h.2, .inr ⟨h.1, rfl⟩⟩

/-- An illegal word on a running instance: its fault is recorded, nothing else changes. -/
theorem takeIllegal_eq_next {cmd : CmdWord} {t : State} :
    takeIllegal cmd s = .next t ↔ s.fault = none ∧ t = { s with fault := some (.illegalCommand cmd) } := by
  unfold takeIllegal
  rw [takeCommand_eq_next]
  constructor
  · rintro ⟨h, rfl⟩; exact ⟨h, s.raise_running h _⟩
  · rintro ⟨h, rfl⟩; exact ⟨h, s.raise_running h _⟩

end Sys2Proof.Machine
end

