-- ==== Sys2Proof/Laws/Cache.lean ====
section
/-! SUPPORT. What FETCHB can do, said once. -/

namespace Sys2Proof.Machine

variable (s : State)

/-- A line's lookup finds a way iff that way hits, and way 1 only where way 0 does not (R133). -/
theorem Line.lookup_eq_some {x : Line} {g : CacheTag} {w : WayNo} :
    x.lookup g = some w ↔ (x.way w).hits g = true ∧ (w = 1 → x.way0.hits g = false) := by
  unfold Line.lookup
  obtain rfl | rfl := WayNo.zero_or_one w
  · cases h0 : x.way0.hits g <;> cases x.way1.hits g <;> simp [h0]
  · cases x.way0.hits g <;> cases h1 : x.way1.hits g <;> simp [h1]

theorem Line.lookup_eq_none {x : Line} {g : CacheTag} :
    x.lookup g = none ↔ x.way0.hits g = false ∧ x.way1.hits g = false := by
  unfold Line.lookup
  cases x.way0.hits g <;> cases x.way1.hits g <;> simp

/-- The victim way after an install: the new block (R135). -/
@[simp] theorem Line.install_victim (x : Line) (g : CacheTag) (d : Word32) :
    (x.install g d).way x.victim = ⟨d, g, true⟩ := Line.way_setWay_self x x.victim _

/-- Any way after an install. -/
theorem Line.install_way (x : Line) (g : CacheTag) (d : Word32) (w : WayNo) :
    (x.install g d).way w = if x.victim = w then ⟨d, g, true⟩ else x.way w :=
  Line.way_setWay x x.victim _ w

@[simp] theorem Line.install_older (x : Line) (g : CacheTag) (d : Word32) : (x.install g d).older = 1 - x.victim := rfl

/-- All that a fetch can do: out of range, a hit in a way, a miss (R130). -/
theorem State.fetchByte_cases (pa : Word32) :
    (paInRange pa = false ∧ s.fetchByte pa = s.raise (.physicalOutOfRange pa)) ∨
    (paInRange pa = true ∧ ∃ w, (s.lineAt (lineOf pa)).lookup (ctagOf pa) = some w ∧
      s.fetchByte pa = s.fetched .dataFromCache ((s.lineAt (lineOf pa)).way w).data pa) ∨
    (paInRange pa = true ∧ (s.lineAt (lineOf pa)).lookup (ctagOf pa) = none ∧
      s.fetchByte pa = s.cacheMiss pa) := by
  unfold State.fetchByte
  cases paInRange pa <;> cases (s.lineAt (lineOf pa)).lookup (ctagOf pa) <;> simp

/-! ### What a fetch leaves unchanged -/

section
variable (pa : Word32)

@[simp] theorem State.fetchByte_init : (s.fetchByte pa).init = s.init := by
  rcases s.fetchByte_cases pa with ⟨_, h⟩ | ⟨_, w, _, h⟩ | ⟨_, _, h⟩ <;> rw [h]
  · rw [State.raise_eq]
  all_goals rfl

@[simp] theorem State.fetchByte_tlb : (s.fetchByte pa).tlb = s.tlb := by
  rcases s.fetchByte_cases pa with ⟨_, h⟩ | ⟨_, w, _, h⟩ | ⟨_, _, h⟩ <;> rw [h]
  · rw [State.raise_eq]
  all_goals rfl

@[simp] theorem State.fetchByte_pt : (s.fetchByte pa).pt = s.pt := by
  rcases s.fetchByte_cases pa with ⟨_, h⟩ | ⟨_, w, _, h⟩ | ⟨_, _, h⟩ <;> rw [h]
  · rw [State.raise_eq]
  all_goals rfl

@[simp] theorem State.fetchByte_commands : (s.fetchByte pa).commands = s.commands := by
  rcases s.fetchByte_cases pa with ⟨_, h⟩ | ⟨_, w, _, h⟩ | ⟨_, _, h⟩ <;> rw [h]
  · rw [State.raise_eq]
  all_goals rfl

@[simp] theorem State.fetchByte_frameAnswers : (s.fetchByte pa).frameAnswers = s.frameAnswers := by
  rcases s.fetchByte_cases pa with ⟨_, h⟩ | ⟨_, w, _, h⟩ | ⟨_, _, h⟩ <;> rw [h]
  · rw [State.raise_eq]
  all_goals rfl

@[simp] theorem State.fetchByte_tlbAt (i : TlbIndex) : (s.fetchByte pa).tlbAt i = s.tlbAt i := by
  simp [State.tlbAt]

@[simp] theorem State.fetchByte_ptAt (v : Vpn) : (s.fetchByte pa).ptAt v = s.ptAt v := by
  simp [State.ptAt]

end

/-- What a fetch does to the cache: nothing, or on a miss the install in the address's own line (R136). -/
theorem State.fetchByte_cache (pa : Word32) :
    (s.fetchByte pa).cache = s.cache ∨
    ((s.lineAt (lineOf pa)).lookup (ctagOf pa) = none ∧
      (s.fetchByte pa).cache =
        (s.setLine (lineOf pa) ((s.lineAt (lineOf pa)).install (ctagOf pa) (s.wordAnswer pa))).cache) := by
  rcases s.fetchByte_cases pa with ⟨_, h⟩ | ⟨_, w, _, h⟩ | ⟨_, hl, h⟩ <;> rw [h]
  · exact .inl (by rw [State.raise_eq])
  · exact .inl rfl
  · exact .inr ⟨hl, rfl⟩

/-- All that `exec (.fetchb pa)` can answer with a next state. -/
theorem exec_fetchb_eq_next {pa : Word32} {t : State} :
    exec (.fetchb pa) s = .next t ↔ s.fault = none ∧
      ((s.init = false ∧ t = { s with fault := some (.notInitialized (encode (.fetchb pa))) }) ∨
        (s.init = true ∧ t = s.fetchByte pa)) :=
  takeQuery_eq_next (cmd := encode (.fetchb pa)) (body := fun s => s.fetchByte pa) s

end Sys2Proof.Machine
end

