-- ==== Sys2Proof/Laws/Decode.lean ====
section
/-! SUPPORT. The fields of an encoded command. -/

namespace Sys2Proof

@[simp] theorem encode_op (i : Instr) : (encode i).op = i.opcode := by
  simp only [encode, CmdWord.op]
  rw [BitVec.extractLsb'_append_eq_of_le (by decide), BitVec.extractLsb'_append_eq_of_le (by decide)]
  simp

@[simp] theorem encode_rsv (i : Instr) : (encode i).rsv = 0 := by
  simp only [encode, CmdWord.rsv]
  rw [BitVec.extractLsb'_append_eq_of_le (by decide), BitVec.extractLsb'_append_eq_of_add_le (by decide)]
  simp

@[simp] theorem encode_operand (i : Instr) : (encode i).operand = i.operandField := by
  simp only [encode, CmdWord.operand]
  rw [BitVec.extractLsb'_append_eq_of_add_le (by decide)]
  simp

/-- A word is its three fields. -/
theorem CmdWord.fields_append (w : CmdWord) : (w.op ++ w.rsv) ++ w.operand = w := by
  apply BitVec.eq_of_getLsbD_eq
  intro k hk
  simp only [CmdWord.op, CmdWord.rsv, CmdWord.operand, BitVec.getLsbD_append, BitVec.getLsbD_extractLsb']
  by_cases h1 : k < 32
  · simp [h1]
  · by_cases h2 : k - 32 < 24
    · simp [h1, h2, show 32 + (k - 32) = k by omega]
    · simp [h1, h2, show 56 + (k - 32 - 24) = k by omega, show k - 32 - 24 < 8 by omega]

end Sys2Proof
end

