-- ==== Sys2Proof/Laws/PerInstr.lean ====
section
/-! SUPPORT. Statements made for each command (LAWS.json): the fields of its word and its row of the opcode table. -/

namespace Sys2Proof.Laws.EncodedFields

/-- The word of a command has the command's opcode, a zero reserved field and its operand (R81, R82), and matches the
command's row of spec/opcode_table.json under that row's mask (R85). -/
def Statement (i : Instr) : Prop :=
  (encode i).op = i.opcode ∧ (encode i).rsv = 0 ∧ (encode i).operand = i.operandField ∧
    encode i &&& i.mask = i.pattern

theorem init : Statement .init := by
  refine ⟨encode_op _, encode_rsv _, encode_operand _, by decide⟩

/-- The high half of a word is kept, and the operand is cleared, by the mask of a row with an operand. -/
theorem high_half (h : BitVec 32) (v : Word32) :
    (h ++ v) &&& (0xFFFFFFFF00000000 : CmdWord) = h ++ (0 : Word32) := by
  rw [show (0xFFFFFFFF00000000 : CmdWord) = BitVec.allOnes 32 ++ (0 : Word32) by decide, BitVec.and_append,
    BitVec.and_allOnes, show v &&& (0 : Word32) = 0 from BitVec.and_zero]

theorem xlate (va : Word32) : Statement (.xlate va) :=
  ⟨encode_op _, encode_rsv _, encode_operand _, high_half (0x01#8 ++ 0#24) va⟩

theorem fetchb (pa : Word32) : Statement (.fetchb pa) :=
  ⟨encode_op _, encode_rsv _, encode_operand _, high_half (0x02#8 ++ 0#24) pa⟩

end Sys2Proof.Laws.EncodedFields
end

