-- ==== Sys2Proof/Laws/Translate.lean ====
section
/-! SUPPORT. What XLATE can do, said once. -/

namespace Sys2Proof.Machine

variable (s : State)

/-- The TLB lookup hits with `p` iff the selected entry is valid, has the page's tag and holds `p` (R103). -/
theorem State.tlbLookup_eq_some {v : Vpn} {p : Ppn} :
    s.tlbLookup v = some p ↔ s.tlbAt (tlbIndexOf v) = ⟨p, tlbTagOf v, true⟩ := by
  unfold State.tlbLookup
  rcases s.tlbAt (tlbIndexOf v) with ⟨q, g, b⟩
  cases b <;> by_cases h : g = tlbTagOf v <;> simp [h]

theorem State.tlbLookup_eq_none {v : Vpn} :
    s.tlbLookup v = none ↔
      ((s.tlbAt (tlbIndexOf v)).valid = true → (s.tlbAt (tlbIndexOf v)).tag ≠ tlbTagOf v) := by
  unfold State.tlbLookup
  rcases s.tlbAt (tlbIndexOf v) with ⟨q, g, b⟩
  cases b <;> by_cases h : g = tlbTagOf v <;> simp [h]

/-- The page-table lookup hits with `p` iff the entry is valid and holds `p` (R105). -/
theorem State.ptLookup_eq_some {v : Vpn} {p : Ppn} : s.ptLookup v = some p ↔ s.ptAt v = ⟨p, true⟩ := by
  unfold State.ptLookup
  rcases s.ptAt v with ⟨q, b⟩
  cases b <;> simp

theorem State.ptLookup_eq_none {v : Vpn} : s.ptLookup v = none ↔ (s.ptAt v).valid = false := by
  unfold State.ptLookup
  rcases s.ptAt v with ⟨q, b⟩
  cases b <;> simp

/-- All that a translation can do: the four outcomes of R110, each with its condition. -/
theorem State.translate_cases (va : Word32) :
    (vaLegal va = false ∧ s.translate va = s.illegalVa va) ∨
    (vaLegal va = true ∧ ∃ p, s.tlbLookup (vpnOf va) = some p ∧
      s.translate va = s.translated .addressFromTlb p va) ∨
    (vaLegal va = true ∧ s.tlbLookup (vpnOf va) = none ∧ ∃ p, s.ptLookup (vpnOf va) = some p ∧
      s.translate va = s.ptHit va p) ∨
    (vaLegal va = true ∧ s.tlbLookup (vpnOf va) = none ∧ s.ptLookup (vpnOf va) = none ∧
      s.translate va = s.pageFault va) := by
  unfold State.translate
  cases vaLegal va <;> cases s.tlbLookup (vpnOf va) <;> cases s.ptLookup (vpnOf va) <;> simp

/-! ### What a translation leaves unchanged -/

section
variable (va : Word32)

@[simp] theorem State.translate_init : (s.translate va).init = s.init := by
  rcases s.translate_cases va with ⟨_, h⟩ | ⟨_, p, _, h⟩ | ⟨_, _, p, _, h⟩ | ⟨_, _, _, h⟩ <;> rw [h] <;> rfl

@[simp] theorem State.translate_cache : (s.translate va).cache = s.cache := by
  rcases s.translate_cases va with ⟨_, h⟩ | ⟨_, p, _, h⟩ | ⟨_, _, p, _, h⟩ | ⟨_, _, _, h⟩ <;> rw [h] <;> rfl

@[simp] theorem State.translate_fault : (s.translate va).fault = s.fault := by
  rcases s.translate_cases va with ⟨_, h⟩ | ⟨_, p, _, h⟩ | ⟨_, _, p, _, h⟩ | ⟨_, _, _, h⟩ <;> rw [h] <;> rfl

@[simp] theorem State.translate_commands : (s.translate va).commands = s.commands := by
  rcases s.translate_cases va with ⟨_, h⟩ | ⟨_, p, _, h⟩ | ⟨_, _, p, _, h⟩ | ⟨_, _, _, h⟩ <;> rw [h] <;> rfl

@[simp] theorem State.translate_wordAnswers : (s.translate va).wordAnswers = s.wordAnswers := by
  rcases s.translate_cases va with ⟨_, h⟩ | ⟨_, p, _, h⟩ | ⟨_, _, p, _, h⟩ | ⟨_, _, _, h⟩ <;> rw [h] <;> rfl

@[simp] theorem State.translate_lineAt (l : LineIndex) : (s.translate va).lineAt l = s.lineAt l := by
  simp [State.lineAt]

end

/-- What a translation does to the TLB and the page table, on the four paths together: the frame `p` it answers is the one
both tables hold for the page afterwards, where they held it before or are written. -/
theorem State.translate_tables (va : Word32) :
    ((s.translate va).tlb = s.tlb ∧ (s.translate va).pt = s.pt) ∨
    (∃ p, s.ptLookup (vpnOf va) = some p ∧ (s.translate va).pt = s.pt ∧
      (s.translate va).tlb = (s.tlbFill (vpnOf va) p).tlb) ∨
    (s.ptLookup (vpnOf va) = none ∧
      (s.translate va).pt = (s.setPt (vpnOf va) ⟨s.frameAnswer (vpnOf va), true⟩).pt ∧
      (s.translate va).tlb = (s.tlbFill (vpnOf va) (s.frameAnswer (vpnOf va))).tlb) := by
  rcases s.translate_cases va with ⟨_, h⟩ | ⟨_, p, _, h⟩ | ⟨_, _, p, hp, h⟩ | ⟨_, _, hp, h⟩ <;> rw [h]
  · exact .inl ⟨rfl, rfl⟩
  · exact .inl ⟨rfl, rfl⟩
  · exact .inr (.inl ⟨p, hp, rfl, rfl⟩)
  · exact .inr (.inr ⟨hp, rfl, rfl⟩)

/-- All that `exec (.xlate va)` can answer with a next state. -/
theorem exec_xlate_eq_next {va : Word32} {t : State} :
    exec (.xlate va) s = .next t ↔ s.fault = none ∧
      ((s.init = false ∧ t = { s with fault := some (.notInitialized (encode (.xlate va))) }) ∨
        (s.init = true ∧ t = s.translate va)) :=
  takeQuery_eq_next (cmd := encode (.xlate va)) (body := fun s => s.translate va) s

end Sys2Proof.Machine
end

