-- ==== Sys2Proof/Laws/Step.lean ====
section
/-! SUPPORT. What INIT and one step can do, said once. -/

namespace Sys2Proof.Machine

variable (s : State)

/-- All that `exec .init` can answer with a next state (R160). -/
theorem exec_init_eq_next {t : State} :
    exec .init s = .next t ↔
      s.fault = none ∧ t = ({ s.clearTables with init := true }).respond .initDone 0 := by
  rw [show exec .init s = execInit s from rfl, execInit, takeCommand_eq_next]
  exact and_congr_right fun _ => eq_comm

/-- All that a step can answer with a next state: idle, or one command taken, legal or not. -/
theorem step_cases {t : State} (h : step s = .next t) :
    s.fault = none ∧
      ((s.commands = [] ∧ t = s) ∨
        ∃ w ws, s.commands = w :: ws ∧
          ((∃ i, decode w = .instr i ∧ exec i { s with commands := ws } = .next t) ∨
            (∃ why, decode w = .illegal why ∧
              t = { s with commands := ws, fault := some (.illegalCommand w) }))) := by
  unfold step at h
  cases hf : s.fault with
  | some f => simp [hf] at h
  | none =>
    refine ⟨rfl, ?_⟩
    cases hc : s.commands with
    | nil => simp [hf, State.nextCommand, hc] at h; exact .inl ⟨rfl, h.symm⟩
    | cons w ws =>
      refine .inr ⟨w, ws, rfl, ?_⟩
      simp only [hf, State.nextCommand, hc] at h
      cases hd : decode w with
      | instr i => exact .inl ⟨i, rfl, by simpa only [hd] using h⟩
      | illegal why =>
        rw [hd] at h
        exact .inr ⟨why, rfl, ((takeIllegal_eq_next _).1 h).2⟩

/-- All that any command can answer with a next state: a query before INIT, INIT, a translation, a fetch. -/
theorem exec_cases {i : Instr} {t : State} (h : exec i s = .next t) :
    s.fault = none ∧
      ((s.init = false ∧ i.isQuery = true ∧ t = { s with fault := some (.notInitialized (encode i)) }) ∨
        (i = .init ∧ t = ({ s.clearTables with init := true }).respond .initDone 0) ∨
        (s.init = true ∧ ∃ va, i = .xlate va ∧ t = s.translate va) ∨
        (s.init = true ∧ ∃ pa, i = .fetchb pa ∧ t = s.fetchByte pa)) := by
  cases i with
  | init =>
    obtain ⟨hf, ht⟩ := (exec_init_eq_next s).1 h
    exact ⟨hf, .inr (.inl ⟨rfl, ht⟩)⟩
  | xlate va =>
    obtain ⟨hf, ⟨hi, ht⟩ | ⟨hi, ht⟩⟩ := (exec_xlate_eq_next s).1 h
    · exact ⟨hf, .inl ⟨hi, rfl, ht⟩⟩
    · exact ⟨hf, .inr (.inr (.inl ⟨hi, va, rfl, ht⟩))⟩
  | fetchb pa =>
    obtain ⟨hf, ⟨hi, ht⟩ | ⟨hi, ht⟩⟩ := (exec_fetchb_eq_next s).1 h
    · exact ⟨hf, .inl ⟨hi, rfl, ht⟩⟩
    · exact ⟨hf, .inr (.inr (.inr ⟨hi, pa, rfl, ht⟩))⟩

/-- A property that every command of a list keeps is kept by the list. -/
theorem execAll_keeps {P : State → Prop} {is : List Instr} :
    ∀ {s t : State}, (∀ i ∈ is, ∀ a b, exec i a = .next b → P a → P b) → execAll is s = .next t → P s → P t := by
  induction is with
  | nil => rintro s t - h hs; obtain rfl := Host.Outcome.next.inj h; exact hs
  | cons i is ih =>
    intro s t hk h hs
    unfold execAll at h
    cases he : exec i s with
    | next u =>
      rw [he] at h
      exact ih (fun j hj => hk j (List.mem_cons_of_mem i hj)) h (hk i List.mem_cons_self s u he hs)
    | fault f => rw [he] at h; cases h
    | refused r => rw [he] at h; cases h

/-- A property that does not look at the command port and the fault, and that every command keeps, is kept by a step. -/
theorem step_keeps {P : State → Prop} (hport : ∀ (s : State) c f, P s → P { s with commands := c, fault := f })
    (hexec : ∀ i s t, exec i s = .next t → P s → P t) {t : State} (h : step s = .next t) (hs : P s) : P t := by
  obtain ⟨-, ⟨-, rfl⟩ | ⟨w, ws, -, ⟨i, -, he⟩ | ⟨-, -, rfl⟩⟩⟩ := step_cases s h
  · exact hs
  · exact hexec i _ t he (hport s ws s.fault hs)
  · exact hport s ws _ hs

end Sys2Proof.Machine
end

