-- ==== Sys2Proof/Tests/Slice0.lean ====
section
/-! SUPPORT. Tests. The expected values are those of spec/95_test_vectors.md (each test names its vector) or of the rule
named. After them, for every statement that has hypotheses, a state and operands that meet them together. -/

namespace Sys2Proof.Tests
open Sys2Proof.Machine

/-- An instance after INIT, with nothing else done. -/
def ready : State := { State.reset with init := true }

/-- The next state of an outcome that has one. -/
def nextOf : Host.Outcome State Fault Refusal → Option State
  | .next t => some t
  | .fault _ => none
  | .refused _ => none

/-! ### Words, written out from R81 and R82: op, rsv, operand -/

theorem test_decode_init : decode (0x00#8 ++ 0x000000#24 ++ 0x00000000#32) = .instr .init := by decide
theorem test_decode_xlate : decode (0x01#8 ++ 0x000000#24 ++ 0xFFFFFFFF#32) = .instr (.xlate 0xFFFFFFFF) := by decide
theorem test_decode_fetchb : decode (0x02#8 ++ 0x000000#24 ++ 0x00000A05#32) = .instr (.fetchb 0x00000A05) := by decide
theorem test_decode_e8_e9 : decode 0xFF00000000000000 = .illegal .unknownOpcode ∧
    decode 0x0000000100000000 = .illegal .reservedNonzero := by decide
theorem test_decodeTableWord : decodeTableWord 64 0x0100000000012345 = some (.xlate 0x00012345) ∧
    decodeTableWord 64 0x0300000000000000 = none := by decide

/-! ### Ill-formed words: one for each check of R84 (E7, E6, E2) -/

theorem smoke_unknown_opcode : CmdWord.opKnown 0x0300000000000000 = false ∧
    CmdWord.wellFormed 0x0300000000000000 = false := by decide
theorem smoke_reserved_nonzero : CmdWord.rsvZero 0x0100000100000000 = false ∧
    CmdWord.wellFormed 0x0100000100000000 = false := by decide
theorem smoke_init_operand : CmdWord.initOperandZero 0x0000000000000001 = false ∧
    CmdWord.wellFormed 0x0000000000000001 = false := by decide
theorem smoke_well_formed : CmdWord.wellFormed 0x01000000FFFFFFFF = true := by decide
theorem smoke_immediate : SourceCommand.wellFormed (.xlate 4294967296) = false ∧
    SourceCommand.wellFormed (.fetchb (-2147483649)) = false := by decide

/-! ### The decomposer (V6, V8, V9; P5, P6, P8) -/

theorem test_va_v6 : (vpnOf 0x00012345, vpoOf 0x00012345, tlbIndexOf (vpnOf 0x00012345), tlbTagOf (vpnOf 0x00012345)) =
    (0x091, 0x145, 0x1, 0x09) := by decide
theorem test_va_v8_v9 : vpnOf 0x0003FFFF = 0x1FF ∧ vaLegal 0x0003FFFF = true ∧ vaLegal 0x00040000 = false := by decide
theorem test_pa_p5_p6 : (ctagOf 0x00000A05, lineOf 0x00000A05, offOf 0x00000A05) = (0x0005, 1, 1) ∧
    (ctagOf 0x00000A84, lineOf 0x00000A84, offOf 0x00000A84) = (0x0005, 1, 0) := by decide
theorem test_pa_p8 : (ctagOf 0x003FFFFF, lineOf 0x003FFFFF, offOf 0x003FFFFF) = (0x1FFF, 31, 3) := by decide

/-! ### One command -/

/-- T1. -/
theorem test_xlate_page_fault :
    (nextOf (exec (.xlate 0) { ready with frameAnswers := [0x0005] })).map
      (fun t => (t.responses, t.log, t.ptAt 0, t.tlbAt 0)) =
    some ([⟨.addressFromPageFaultHandler, 0x00000A00⟩], [⟨.addressFromPageFaultHandler, 0x00000A00⟩], ⟨0x0005, true⟩,
      ⟨0x0005, 0x00, true⟩) := by decide

/-- T6c: a conflicting TLB entry, and the page's mapping in the page table. -/
theorem test_xlate_page_table_hit :
    (nextOf (exec (.xlate 0x00000234)
        ((ready.setPt 0x001 ⟨0x0010, true⟩).setTlb 1 ⟨0x0011, 0x01, true⟩))).map (fun t => (t.responses, t.tlbAt 1)) =
    some ([⟨.addressFromPageTable, 0x00002034⟩], ⟨0x0010, 0x00, true⟩) := by decide

/-- T20a. -/
theorem test_fetchb_miss :
    (nextOf (exec (.fetchb 0x00000A05) { ready with wordAnswers := [0x44332211] })).map
      (fun t => (t.responses, t.calls.head?, t.lineAt 1)) =
    some ([⟨.dataFromMemory, 0x22⟩], some (.memRead 0x00000A05 0x44332211),
      ⟨⟨0x44332211, 5, true⟩, .cleared, 1⟩) := by decide

/-- T22: an alias hit, although memory holds another byte. -/
theorem test_fetchb_alias_hit :
    (nextOf (exec (.fetchb 0x00000A84)
        { (ready.setLine 1 ⟨⟨0x44332211, 5, true⟩, .cleared, 1⟩) with wordAnswers := [0x88776655] })).map
      (fun t => (t.responses, t.wordAnswers)) =
    some ([⟨.dataFromCache, 0x11⟩], [0x88776655]) := by decide

/-- INIT after a mapping (T40b's first half): the mapping is gone, the log is kept. -/
theorem test_init_discards :
    (nextOf (exec .init { (ready.setPt 0x91 ⟨3, true⟩) with log := [⟨.addressFromTlb, 7⟩] })).map
      (fun t => (t.responses, t.log, t.ptAt 0x91)) =
    some ([⟨.initDone, 0⟩], [⟨.addressFromTlb, 7⟩], ⟨0, false⟩) := by decide

/-- T41: INIT's opcode with an operand. -/
theorem test_init_operand_faults :
    (nextOf (step { ready with commands := [0x0000000000000001] })).map (fun t => (t.fault, t.responses)) =
    some (some (.illegalCommand 0x0000000000000001), []) := by decide

/-- T10: a query before INIT records the command word. -/
theorem test_query_before_init :
    (nextOf (step (State.reset.withFetchWord 64 0x0100000000000000))).map (fun t => (t.fault, t.log)) =
    some (some (.notInitialized 0x0100000000000000), []) := by decide

/-! ### The assembler (R91; the first commands of Programs 1 and 3) -/

theorem test_assemble_program :
    assembleScript "INIT ; reset\nXLATE 0x00000045\nFETCHB 0x00000A45\n".toList =
      some [0x0000000000000000, 0x0100000000000045, 0x0200000000000A45] := by decide +kernel
theorem test_assemble_negative : assembleScript "FETCHB -1".toList = some [0x02000000FFFFFFFF] ∧
    assembleScript "XLATE 4294967296".toList = none ∧ assembleScript "XLATE -0x1".toList = none := by decide +kernel

/-! ### Witnesses: the hypotheses of each statement, met together -/

theorem ready_Ready : ready.Ready := ⟨rfl, rfl⟩

/-- A line with both ways valid, tags 0 and 1. -/
def fullLine (older : WayNo) : Line := ⟨⟨0xDDCCBBAA, 0, true⟩, ⟨0x11111111, 1, true⟩, older⟩

/-- An instance whose page 0 is in the TLB and the page table, and whose line 0 is full. -/
def mapped : State := ((ready.setPt 0 ⟨5, true⟩).setTlb 0 ⟨5, 0, true⟩).setLine 0 (fullLine 0)

theorem mapped_Ready : mapped.Ready := ⟨rfl, rfl⟩

theorem witness_EncodeOfDecodeIsTheWord : decode 0x0200000000000000 = .instr (.fetchb 0) := by decide

theorem witness_IllegalWordRaisesIllegalCommand :
    ready.fault = none ∧ ({ ready with commands := [0x0300000000000000] } : State).commands = [0x0300000000000000] ∧
    CmdWord.wellFormed 0x0300000000000000 = false ∧ CmdWord.wellFormed 0x0000000100000000 = false ∧
    CmdWord.wellFormed 0x0000000000000001 = false := by decide

theorem witness_StepRunsTheDecodedCommand :
    ({ ready with commands := [0x0100000000000200] } : State).fault = none ∧
    ({ ready with commands := [0x0100000000000200] } : State).commands = [0x0100000000000200] ∧
    decode 0x0100000000000200 = .instr (.xlate 0x200) := by decide

theorem witness_IdleStepHoldsTheState : ready.fault = none ∧ ready.commands = [] := by decide

theorem witness_StuckInstanceStops :
    ({ ready with fault := some (.physicalOutOfRange 0x400000) } : State).fault =
      some (.physicalOutOfRange 0x400000) := by decide

theorem witness_NothingStopsAHealthyInstance :
    step { ready with fault := some (.physicalOutOfRange 0x400000) } = .fault (.physicalOutOfRange 0x400000) := rfl

/-- Each of the three faults is raised by some step. -/
theorem witness_ModelFaultTable :
    ((nextOf (step { ready with commands := [0x0300000000000000] })).bind State.fault =
      some (.illegalCommand 0x0300000000000000)) ∧
    ((nextOf (step { State.reset with commands := [0x0200000000000000] })).bind State.fault =
      some (.notInitialized 0x0200000000000000)) ∧
    ((nextOf (step { ready with commands := [0x0200000000400000] })).bind State.fault =
      some (.physicalOutOfRange 0x00400000)) := by decide

theorem witness_RaisingAFaultDoesNothingElse :
    (∃ t, step { ready with commands := [0x0300000000000000] } = .next t ∧ t.fault ≠ none) ∧
    ({ ready with fault := some (.illegalCommand 1) } : State).fault ≠ none :=
  ⟨⟨_, rfl, by decide⟩, by decide⟩

theorem witness_InitFlag :
    (∃ t, exec .init State.reset = .next t) ∧ (∃ t, step ready = .next t ∧ ready.init = true) ∧
    (State.reset.fault = none ∧ State.reset.init = false ∧ (Instr.fetchb 0).isQuery = true) :=
  ⟨⟨_, rfl⟩, ⟨_, rfl, rfl⟩, rfl, rfl, rfl⟩

theorem witness_InitSetsEveryReset : State.reset.fault = none ∧ mapped.fault = none := by decide

/-- Both clauses: no fault recorded in between, and one recorded. -/
theorem witness_LaterInitIsTheFirst :
    (∃ t u, exec .init mapped = .next t ∧ execAll [.xlate 0x40000] t = .next u ∧ u.fault = none) ∧
    (∃ t u, exec .init mapped = .next t ∧ execAll [.fetchb 0x400000] t = .next u ∧ u.fault ≠ none) :=
  ⟨⟨_, _, rfl, rfl, rfl⟩, ⟨_, _, rfl, rfl, by decide⟩⟩

theorem witness_FirstTouchAfterInit :
    (∃ t u, exec .init mapped = .next t ∧ execAll [.xlate 0x200, .fetchb 0x004] t = .next u ∧ u.fault = none) ∧
    (vaLegal 0 = true ∧ ∀ vb, Instr.xlate vb ∈ [.xlate 0x200, .fetchb 0x004] → vaLegal vb = true →
      vpnOf vb ≠ vpnOf 0) ∧
    (paInRange 0 = true ∧ ∀ pb, Instr.fetchb pb ∈ [.xlate 0x200, .fetchb 0x004] → lineOf pb ≠ lineOf 0) := by
  refine ⟨⟨_, _, rfl, rfl, rfl⟩, ⟨by decide, fun vb h _ => ?_⟩, by decide, fun pb h => ?_⟩
  · simp only [List.mem_cons, Instr.xlate.injEq, reduceCtorEq, List.not_mem_nil, or_false] at h
    subst h; decide
  · simp only [List.mem_cons, Instr.fetchb.injEq, reduceCtorEq, List.not_mem_nil, or_false, false_or] at h
    subst h; decide

theorem witness_XlateOutOfRange :
    ready.Ready ∧ (0x00040000 : Word32).extractLsb' 18 14 ≠ 0 ∧ (0x80000000 : Word32).extractLsb' 18 14 ≠ 0 :=
  ⟨ready_Ready, by decide, by decide⟩

theorem witness_XlateTlbHit :
    mapped.Ready ∧ vaLegal 0x1FF = true ∧ mapped.tlbAt (tlbIndexOf (vpnOf 0x1FF)) = ⟨5, tlbTagOf (vpnOf 0x1FF), true⟩ :=
  ⟨mapped_Ready, by decide, by decide⟩

/-- The TLB entry is invalid, or is valid with another tag. -/
theorem witness_XlatePageTableHit :
    (ready.setPt 0x1FF ⟨9, true⟩).Ready ∧ vaLegal 0x3FFFF = true ∧
    ((ready.setPt 0x1FF ⟨9, true⟩).tlbAt (tlbIndexOf (vpnOf 0x3FFFF))).valid = false ∧
    (ready.setPt 0x1FF ⟨9, true⟩).ptAt (vpnOf 0x3FFFF) = ⟨9, true⟩ ∧
    (((ready.setPt 1 ⟨9, true⟩).setTlb 1 ⟨7, 1, true⟩).tlbAt (tlbIndexOf (vpnOf 0x200))).tag ≠ tlbTagOf (vpnOf 0x200) :=
  ⟨⟨rfl, rfl⟩, by decide +kernel⟩

theorem witness_XlatePageFault :
    ({ ready with frameAnswers := [0x1FFF] } : State).Ready ∧ vaLegal 0x3FFFF = true ∧
    (ready.tlbAt (tlbIndexOf (vpnOf 0x3FFFF))).valid = false ∧ (ready.ptAt (vpnOf 0x3FFFF)).valid = false ∧
    ({ ready with frameAnswers := [0x1FFF] } : State).frameAnswer (vpnOf 0x3FFFF) = 0x1FFF :=
  ⟨⟨rfl, rfl⟩, by decide +kernel⟩

theorem witness_XlateClassification : mapped.Ready := mapped_Ready

theorem witness_XlateFrame :
    (∃ t, exec (.xlate 0x40000) mapped = .next t) ∧ vaLegal 0x40000 = false ∧ mapped.init = true ∧
    (15 : TlbIndex) ≠ tlbIndexOf (vpnOf 0) ∧ (0x1FF : Vpn) ≠ vpnOf 0 :=
  ⟨⟨_, rfl⟩, by decide⟩

theorem witness_RepeatTranslationHits : ready.Ready ∧ vaLegal 0x3FFFF = true := ⟨ready_Ready, by decide⟩

theorem witness_TlbConflict :
    State.reset.fault = none ∧ vaLegal 0x200 = true ∧ vaLegal 0x2200 = true ∧
    (0x200 : Word32).extractLsb' 9 4 = (0x2200 : Word32).extractLsb' 9 4 ∧
    (0x200 : Word32).extractLsb' 13 5 ≠ (0x2200 : Word32).extractLsb' 13 5 := by decide

theorem ready_TlbInPt : ready.TlbInPt := by
  intro i h
  rw [show ready.tlbAt i = .cleared from State.reset.clearTables_tlbAt i] at h
  cases h

theorem witness_TranslationIsStable :
    ready.Ready ∧ ready.TlbInPt ∧ vaLegal 0x00 = true ∧ vaLegal 0x1FF = true ∧ vpnOf 0x00 = vpnOf 0x1FF ∧
    ∃ t u, exec (.xlate 0x00) ready = .next t ∧ Instr.init ∉ [Instr.xlate 0x40000] ∧
      execAll [.xlate 0x40000] t = .next u ∧ u.fault = none :=
  ⟨ready_Ready, ready_TlbInPt, by decide, by decide, by decide,
    ⟨_, _, rfl, by decide, rfl, rfl⟩⟩

theorem witness_PageTableValidIffLoaded :
    (∃ t u, exec .init mapped = .next t ∧ Instr.init ∉ [Instr.xlate 0] ∧ execAll [.xlate 0] t = .next u) ∧
    (∃ t, exec (.xlate 0x200) mapped = .next t ∧ Instr.xlate 0x200 ≠ .init ∧ (mapped.ptAt 0).valid = true) :=
  ⟨⟨_, _, rfl, by decide, rfl⟩, ⟨_, rfl, by decide, by decide⟩⟩

theorem witness_FetchbRange :
    ready.Ready ∧ (0x00400000 : Word32).extractLsb' 22 10 ≠ 0 ∧ (0x003FFFFF : Word32).toNat < 0x00400000 :=
  ⟨ready_Ready, by decide, by decide⟩

/-- A hit in way 0, and a hit in way 1 where way 0 does not hit. -/
theorem witness_FetchbHit :
    mapped.Ready ∧ paInRange 0x003 = true ∧ paInRange 0x203 = true ∧
    ((mapped.lineAt (lineOf 0x003)).way 0).valid = true ∧ ((mapped.lineAt (lineOf 0x003)).way 0).tag = ctagOf 0x003 ∧
    ((mapped.lineAt (lineOf 0x203)).way 1).valid = true ∧ ((mapped.lineAt (lineOf 0x203)).way 1).tag = ctagOf 0x203 ∧
    (mapped.lineAt (lineOf 0x203)).way0.tag ≠ ctagOf 0x203 :=
  ⟨mapped_Ready, by decide⟩

theorem witness_FetchbMiss :
    ({ mapped with wordAnswers := [0x22222222] } : State).Ready ∧ paInRange 0x400 = true ∧
    (∀ u, ((mapped.lineAt (lineOf 0x400)).way u).valid = true → ((mapped.lineAt (lineOf 0x400)).way u).tag ≠ ctagOf 0x400) ∧
    ({ mapped with wordAnswers := [0x22222222] } : State).wordAnswer 0x400 = 0x22222222 ∧
    (mapped.lineAt (lineOf 0x400)).victim = 0 :=
  ⟨⟨rfl, rfl⟩, by decide⟩

/-- Each row of the FSM has a line, and an install changes a line. -/
theorem witness_ReplacementFsm :
    (Line.cleared.way0.valid, Line.cleared.way1.valid) = (false, false) ∧
    ((⟨⟨0, 0, true⟩, .cleared, 1⟩ : Line).way0.valid, (⟨⟨0, 0, true⟩, .cleared, 1⟩ : Line).way1.valid) = (true, false) ∧
    ((⟨.cleared, ⟨0, 0, true⟩, 1⟩ : Line).way0.valid, (⟨.cleared, ⟨0, 0, true⟩, 1⟩ : Line).way1.valid) = (false, true) ∧
    ((fullLine 0).way0.valid, (fullLine 0).way1.valid, (fullLine 0).older) = (true, true, 0) ∧
    ((fullLine 1).way0.valid, (fullLine 1).way1.valid, (fullLine 1).older) = (true, true, 1) ∧
    (nextOf (exec (.fetchb 0x400) mapped)).map (fun t => decide ((t.lineAt 0).older = (mapped.lineAt 0).older)) =
      some false := by decide

theorem witness_FetchbClassification : mapped.Ready ∧ paInRange 0x3FFFFF = true := ⟨mapped_Ready, by decide⟩

theorem witness_FetchbFrame :
    (∃ t, exec (.fetchb 0x203) mapped = .next t) ∧ (31 : LineIndex) ≠ lineOf 0x203 ∧ mapped.init = true ∧
    paInRange 0x203 = true ∧
    (∃ w, ((mapped.lineAt (lineOf 0x203)).way w).valid = true ∧ ((mapped.lineAt (lineOf 0x203)).way w).tag = ctagOf 0x203) :=
  ⟨⟨_, rfl⟩, by decide, by decide, by decide, 1, by decide⟩

/-- The first fetch misses, hits way 0, and hits way 1 where way 0 does not hit. -/
theorem witness_AliasedAddressesShareAWay :
    (ready.Ready ∧ paInRange 0x000 = true ∧ paInRange 0x181 = true ∧ ctagOf 0x000 = ctagOf 0x181 ∧
      lineOf 0x000 = lineOf 0x181 ∧ (∀ w, ((ready.lineAt (lineOf 0x000)).way w).valid = false)) ∧
    (mapped.Ready ∧ ((mapped.lineAt (lineOf 0x000)).way 0).valid = true ∧
      ((mapped.lineAt (lineOf 0x000)).way 0).tag = ctagOf 0x000) ∧
    (paInRange 0x203 = true ∧ paInRange 0x380 = true ∧ ctagOf 0x203 = ctagOf 0x380 ∧ lineOf 0x203 = lineOf 0x380 ∧
      ((mapped.lineAt (lineOf 0x203)).way 1).valid = true ∧ ((mapped.lineAt (lineOf 0x203)).way 1).tag = ctagOf 0x203 ∧
      (mapped.lineAt (lineOf 0x203)).way0.tag ≠ ctagOf 0x203) :=
  ⟨⟨ready_Ready, by decide⟩, ⟨mapped_Ready, by decide⟩, by decide⟩

theorem witness_ReplacementIsFifo :
    mapped.Ready ∧ paInRange 0x000 = true ∧ paInRange 0x400 = true ∧ lineOf 0x000 = lineOf 0x400 ∧
    (mapped.lineAt (lineOf 0x000)).way0.valid = true ∧ (mapped.lineAt (lineOf 0x000)).way1.valid = true ∧
    (∃ w, ((mapped.lineAt (lineOf 0x000)).way w).tag = ctagOf 0x000) ∧
    (∀ w, ((mapped.lineAt (lineOf 0x000)).way w).tag ≠ ctagOf 0x400) :=
  ⟨mapped_Ready, by decide, by decide, by decide, by decide, by decide, ⟨0, by decide⟩, by decide⟩

theorem witness_ThirdTagEvictsTheFirst :
    State.reset.fault = none ∧ paInRange 0x000 = true ∧ paInRange 0x200 = true ∧ paInRange 0x400 = true ∧
    lineOf 0x000 = lineOf 0x200 ∧ lineOf 0x200 = lineOf 0x400 ∧
    ctagOf 0x000 ≠ ctagOf 0x200 ∧ ctagOf 0x200 ≠ ctagOf 0x400 ∧ ctagOf 0x000 ≠ ctagOf 0x400 := by decide

theorem witness_ColdFetchReturnsMemory :
    ({ ready with wordAnswers := [0x05050505] } : State).Ready ∧ paInRange 0x003FFFFF = true ∧
    (∀ u, ((ready.lineAt (lineOf 0x003FFFFF)).way u).valid = true →
      ((ready.lineAt (lineOf 0x003FFFFF)).way u).tag ≠ ctagOf 0x003FFFFF) ∧
    AnswersFrom (fun _ => 0x05) { ready with wordAnswers := [0x05050505] } 0x003FFFFF :=
  ⟨⟨rfl, rfl⟩, by decide, by decide, by unfold AnswersFrom; decide⟩

theorem witness_CachedByteIsKept :
    ready.Ready ∧ paInRange 0x000 = true ∧
    (∃ t u, exec (.fetchb 0x000) ready = .next t ∧ Instr.init ∉ [Instr.fetchb 0x004] ∧
      execAll [.fetchb 0x004] t = .next u ∧ u.fault = none) ∧
    (∀ q, Instr.fetchb q ∈ [.fetchb 0x004] → lineOf q ≠ lineOf 0x000) := by
  refine ⟨ready_Ready, by decide, ⟨_, _, rfl, by decide, rfl, rfl⟩, fun q h => ?_⟩
  simp only [List.mem_cons, Instr.fetchb.injEq, List.not_mem_nil, or_false] at h
  subst h; decide

theorem witness_PipelinesAreIndependent :
    (∃ t, exec (.xlate 0x200) mapped = .next t) ∧ (∃ t, exec (.fetchb 0x400) mapped = .next t) :=
  ⟨⟨_, rfl⟩, ⟨_, rfl⟩⟩

/-- Two states that differ in the frame of an invalid TLB entry. -/
theorem witness_UnobservableFieldsStaySo : ready.Same (ready.setTlb 0 ⟨5, 1, false⟩) := by
  refine ⟨rfl, rfl, rfl, rfl, rfl, rfl, rfl, rfl, fun _ => ⟨fun i => ?_, fun v => ⟨rfl, fun _ => rfl⟩, fun l =>
    ⟨⟨rfl, fun _ => rfl⟩, ⟨rfl, fun _ => rfl⟩, fun _ _ => rfl⟩⟩⟩
  rw [show ready.tlbAt i = .cleared from State.reset.clearTables_tlbAt i, State.tlbAt_setTlb]
  split
  · exact ⟨rfl, fun h => by cases h⟩
  · rw [show ready.tlbAt i = .cleared from State.reset.clearTables_tlbAt i]; exact ⟨rfl, fun _ => rfl⟩

theorem ready_lineAt (l : LineIndex) : ready.lineAt l = .cleared := State.reset.clearTables_lineAt l

theorem ready_WaysDistinct : ready.WaysDistinct := fun l h => by rw [ready_lineAt] at h; cases h

theorem ready_LinesReachable : ready.LinesReachable := fun l => by rw [ready_lineAt]; exact .inl rfl

theorem witness_StepKeepsTlbInPageTable :
    (∃ t, exec .init mapped = .next t) ∧ (∃ t, step { ready with commands := [encode (.xlate 0)] } = .next t) ∧
    State.TlbInPt { ready with commands := [encode (.xlate 0)] } := ⟨⟨_, rfl⟩, ⟨_, rfl⟩, ready_TlbInPt⟩

theorem witness_StepKeepsWaysDistinct :
    (∃ t, exec .init mapped = .next t) ∧ (∃ t, step { ready with commands := [encode (.fetchb 0)] } = .next t) ∧
    State.WaysDistinct { ready with commands := [encode (.fetchb 0)] } :=
  ⟨⟨_, rfl⟩, ⟨_, rfl⟩, ready_WaysDistinct⟩

theorem witness_StepKeepsLinesReachable :
    (∃ t, exec .init mapped = .next t) ∧ (∃ t, step { ready with commands := [encode (.fetchb 0)] } = .next t) ∧
    State.LinesReachable { ready with commands := [encode (.fetchb 0)] } :=
  ⟨⟨_, rfl⟩, ⟨_, rfl⟩, ready_LinesReachable⟩

/-- An instance with no command offered meets the invariants and steps. -/
theorem witness_StepKeepsTablesFetched :
    ready.PtFromAllocator ∧ ready.CacheFromFetcher ∧ ∃ t, step ready = .next t := by
  refine ⟨fun v h => ?_, fun l w h => ?_, ⟨_, rfl⟩⟩
  · rw [show ready.ptAt v = .cleared from State.reset.clearTables_ptAt v] at h; cases h
  · rw [ready_lineAt] at h; obtain rfl | rfl := WayNo.zero_or_one w <;> cases h

theorem witness_StepKeepsLogSound :
    State.LogSound { ready with log := [⟨.addressFromTlb, 1⟩], calls := [.logEntry ⟨.addressFromTlb, 1⟩] } ∧
    ∃ t, step { ready with log := [⟨.addressFromTlb, 1⟩], calls := [.logEntry ⟨.addressFromTlb, 1⟩] } = .next t :=
  ⟨⟨rfl, fun e h => by rw [List.mem_singleton.1 h]; rfl⟩, ⟨_, rfl⟩⟩

theorem witness_CallOrder :
    (∃ t, exec .init mapped = .next t ∧ t.fault = none) ∧ (∃ t, exec (.xlate 0) ready = .next t ∧ t.fault = none) ∧
    (∃ t, exec (.fetchb 0) ready = .next t ∧ t.fault = none) :=
  ⟨⟨_, rfl, rfl⟩, ⟨_, rfl, rfl⟩, ⟨_, rfl, rfl⟩⟩

theorem witness_OneResponseForEachCommand :
    (∃ t, exec (.xlate 0x40000) ready = .next t ∧ t.fault = none) ∧
    (∃ t, exec (.fetchb 0x400000) ready = .next t ∧ t.fault ≠ none) :=
  ⟨⟨_, rfl, rfl⟩, ⟨_, rfl, by decide⟩⟩

theorem witness_StepsRunTheOfferedCommands :
    ∃ t, execAll [.init, .xlate 0x40000] { State.reset with commands := [] } = .next t := ⟨_, rfl⟩

theorem witness_LoadByteCompletes : ready.Ready ∧ vaLegal 0x3FFFF = true ∧ vaLegal 0x40000 = false :=
  ⟨ready_Ready, by decide⟩

theorem witness_AssemblerEmitsTheWord :
    ((-2 : Int) ^ 31 ≤ -2 ^ 31 ∧ (-2 : Int) ^ 31 < 2 ^ 32) ∧ (-2 ^ 31 ≤ (2 ^ 32 - 1 : Int) ∧ (2 ^ 32 - 1 : Int) < 2 ^ 32) ∧
    ((-2 ^ 31 - 1 : Int) < -2 ^ 31) ∧ ((2 : Int) ^ 32 ≤ 2 ^ 32) := by decide

end Sys2Proof.Tests
end

section
/-! What every command keeps of the tables (spec/10_state.md): the TLB in the page table (R38), the lines of the cache
(R28, R39), the page table and the allocator's calls (R25), and `init` (R30). -/

namespace Sys2Proof.Machine

variable {s t : State}

/-! ### Reads of equal tables -/

theorem State.ptAt_eq_of_pt_eq (h : s.pt = t.pt) (v : Vpn) : s.ptAt v = t.ptAt v := by
  simp only [State.ptAt, h]

theorem State.lineAt_eq_of_cache_eq (h : s.cache = t.cache) (l : LineIndex) : s.lineAt l = t.lineAt l := by
  simp only [State.lineAt, h]

/-! ### INIT's next state, table by table -/

theorem exec_init_tlbAt (h : exec .init s = .next t) (i : TlbIndex) : t.tlbAt i = .cleared := by
  obtain ⟨-, rfl⟩ := (exec_init_eq_next s).1 h
  exact s.clearTables_tlbAt i

theorem exec_init_ptAt (h : exec .init s = .next t) (v : Vpn) : t.ptAt v = .cleared := by
  obtain ⟨-, rfl⟩ := (exec_init_eq_next s).1 h
  exact s.clearTables_ptAt v

theorem exec_init_lineAt (h : exec .init s = .next t) (l : LineIndex) : t.lineAt l = .cleared := by
  obtain ⟨-, rfl⟩ := (exec_init_eq_next s).1 h
  exact s.clearTables_lineAt l

theorem exec_init_init (h : exec .init s = .next t) : t.init = true := by
  obtain ⟨-, rfl⟩ := (exec_init_eq_next s).1 h
  rfl

/-! ### Invariants of a step -/

/-- An invariant of a step in three parts: INIT establishes it, and the bodies of XLATE and FETCHB keep it. -/
theorem step_keeps_of_bodies {P : State → Prop}
    (hport : ∀ (s : State) c f, P s → P { s with commands := c, fault := f })
    (hinit : ∀ s t, exec .init s = .next t → P t)
    (hxlate : ∀ (s : State) va, P s → P (s.translate va))
    (hfetchb : ∀ (s : State) pa, P s → P (s.fetchByte pa))
    (h : step s = .next t) (hs : P s) : P t := by
  refine step_keeps s hport (fun i a b hab ha => ?_) h hs
  obtain ⟨-, ⟨-, -, rfl⟩ | ⟨rfl, -⟩ | ⟨-, va, -, rfl⟩ | ⟨-, pa, -, rfl⟩⟩ := exec_cases a hab
  · exact hport a a.commands _ ha
  · exact hinit a b hab
  · exact hxlate a va ha
  · exact hfetchb a pa ha

/-! ### The TLB and the page table (R38) -/

/-- The page of the TLB slot that a page's own index and tag select is that page (R52). -/
theorem vpnOfTlb_tag_index (v : Vpn) : vpnOfTlb (tlbTagOf v) (tlbIndexOf v) = v := by
  simp only [vpnOfTlb, tlbTagOf, tlbIndexOf]
  rw [BitVec.extractLsb'_append_extractLsb'_eq_extractLsb' (by rfl)]
  exact BitVec.extractLsb'_eq_self

theorem State.TlbInPt.of_tables_eq (h : s.TlbInPt) (htlb : t.tlb = s.tlb) (hpt : t.pt = s.pt) : t.TlbInPt := by
  simpa only [State.TlbInPt, State.tlbAt, State.ptAt, htlb, hpt] using h

/-- Filling the TLB with the page table's own frame for a page keeps the TLB in the page table. -/
theorem State.TlbInPt.tlbFill (h : s.TlbInPt) {v : Vpn} {p : Ppn} (hp : s.ptAt v = ⟨p, true⟩) :
    (s.tlbFill v p).TlbInPt := by
  intro j hj
  rw [State.tlbFill, State.setTlb_ptAt]
  rw [State.tlbFill] at hj
  rw [State.tlbAt_setTlb] at hj ⊢
  split at hj
  · next hij =>
    subst hij
    rw [if_pos rfl, vpnOfTlb_tag_index, hp]
  · next hij =>
    rw [if_neg hij]
    exact h j hj

/-- No TLB entry is for a page whose page-table entry is invalid, so loading that page leaves every mapping in place. -/
theorem State.TlbInPt.setPt (h : s.TlbInPt) {v : Vpn} (hv : (s.ptAt v).valid = false) (e : PtEntry) :
    (s.setPt v e).TlbInPt := by
  intro j hj
  have hold := h j hj
  have hne : v ≠ vpnOfTlb (s.tlbAt j).tag j := by
    rintro rfl
    rw [hold] at hv
    cases hv
  rw [State.setPt_tlbAt, State.ptAt_setPt, if_neg hne, hold]

theorem State.TlbInPt.translate (h : s.TlbInPt) (va : Word32) : (s.translate va).TlbInPt := by
  obtain ⟨htlb, hpt⟩ | ⟨p, hp, hpt, htlb⟩ | ⟨hv, hpt, htlb⟩ := s.translate_tables va
  · exact h.of_tables_eq htlb hpt
  · exact (h.tlbFill (s.ptLookup_eq_some.1 hp)).of_tables_eq htlb hpt
  · have hset := h.setPt (s.ptLookup_eq_none.1 hv) ⟨s.frameAnswer (vpnOf va), true⟩
    exact (hset.tlbFill (s.ptAt_setPt_self _ _)).of_tables_eq htlb hpt

theorem exec_init_tlbInPt (h : exec .init s = .next t) : t.TlbInPt := by
  intro i hi
  rw [exec_init_tlbAt h] at hi
  cases hi

/-- A fetch touches neither table. -/
theorem State.TlbInPt.fetchByte (h : s.TlbInPt) (pa : Word32) : (s.fetchByte pa).TlbInPt :=
  h.of_tables_eq (s.fetchByte_tlb pa) (s.fetchByte_pt pa)

theorem step_keeps_tlbInPt (h : step s = .next t) (hs : s.TlbInPt) : t.TlbInPt :=
  step_keeps_of_bodies (P := State.TlbInPt) (fun _ _ _ => id) (fun _ _ => exec_init_tlbInPt)
    (fun _ va ha => ha.translate va) (fun _ pa ha => ha.fetchByte pa) h hs

/-- Settles O46: INIT leaves no valid TLB entry; a translation fills the TLB with the page table's own frame for the page,
and writes the page table only where it was invalid. -/
theorem stepKeepsTlbInPageTable : Obligations.StepKeepsTlbInPageTable :=
  ⟨fun _ _ => exec_init_tlbInPt, fun _ _ hs h => step_keeps_tlbInPt h hs⟩

/-! ### The lines of the cache (R28, R39) -/

/-- A line after a fetch: the line before, or, where no way of the address's line hits, the install in it (R136). -/
theorem State.fetchByte_lineAt (s : State) (pa : Word32) (l : LineIndex) :
    (s.fetchByte pa).lineAt l = s.lineAt l ∨
    ((s.lineAt l).lookup (ctagOf pa) = none ∧
      (s.fetchByte pa).lineAt l = (s.lineAt l).install (ctagOf pa) (s.wordAnswer pa)) := by
  obtain h | ⟨hmiss, h⟩ := s.fetchByte_cache pa
  · exact .inl (State.lineAt_eq_of_cache_eq h l)
  · have hl := State.lineAt_eq_of_cache_eq h l
    rw [State.lineAt_setLine] at hl
    split at hl
    · next hpa =>
      subst hpa
      exact .inr ⟨hmiss, hl⟩
    · exact .inl hl

/-- A property of single lines that the cleared line has and an install on a miss keeps, every step keeps of all lines. -/
theorem step_keeps_lines {P : Line → Prop} (hcleared : P .cleared)
    (hinstall : ∀ (x : Line) g d, x.lookup g = none → P x → P (x.install g d))
    (h : step s = .next t) (hs : ∀ l, P (s.lineAt l)) : ∀ l, P (t.lineAt l) := by
  refine step_keeps_of_bodies (P := fun a => ∀ l, P (a.lineAt l)) (fun _ _ _ => id) (fun a b hab l => ?_)
    (fun a va ha l => ?_) (fun a pa ha l => ?_) h hs
  · rwa [exec_init_lineAt hab]
  · rw [State.translate_lineAt]
    exact ha l
  · obtain heq | ⟨hmiss, heq⟩ := a.fetchByte_lineAt pa l <;> rw [heq]
    · exact ha l
    · exact hinstall _ _ _ hmiss (ha l)

/-- R28 of one line: its two ways, where both are valid, hold different tags. -/
def Line.TagsDistinct (x : Line) : Prop :=
  x.way0.valid = true → x.way1.valid = true → x.way0.tag ≠ x.way1.tag

theorem State.waysDistinct_iff : s.WaysDistinct ↔ ∀ l, (s.lineAt l).TagsDistinct := .rfl

theorem Way.tag_ne_of_not_hits {y : Way} {g : CacheTag} (h : y.hits g = false) (hv : y.valid = true) : y.tag ≠ g := by
  simpa [Way.hits, hv] using h

theorem Line.install_of_victim_zero {x : Line} (h : x.victim = 0) (g : CacheTag) (d : Word32) :
    x.install g d = ⟨⟨d, g, true⟩, x.way1, 1⟩ := by
  simp [Line.install, Line.setWay, h]

theorem Line.install_of_victim_one {x : Line} (h : x.victim = 1) (g : CacheTag) (d : Word32) :
    x.install g d = ⟨x.way0, ⟨d, g, true⟩, 0⟩ := by
  simp [Line.install, Line.setWay, h]

/-- The tag that missed differs from the tag of the way that stays, whichever way is the victim. -/
theorem Line.tagsDistinct_install {x : Line} {g : CacheTag} (hmiss : x.lookup g = none) (d : Word32) :
    (x.install g d).TagsDistinct := by
  obtain ⟨h0, h1⟩ := Line.lookup_eq_none.1 hmiss
  obtain hv | hv := WayNo.zero_or_one x.victim
  · rw [Line.install_of_victim_zero hv]
    exact fun _ hv1 => (Way.tag_ne_of_not_hits h1 hv1).symm
  · rw [Line.install_of_victim_one hv]
    exact fun hv0 _ => Way.tag_ne_of_not_hits h0 hv0

/-- Settles O47: INIT leaves no valid way, and a fetch installs a tag only where no way of the line holds it. -/
theorem stepKeepsWaysDistinct : Obligations.StepKeepsWaysDistinct := by
  have hcleared : Line.cleared.TagsDistinct := fun h => by cases h
  simp only [Obligations.StepKeepsWaysDistinct, State.waysDistinct_iff]
  refine ⟨fun s t h l => ?_, fun s t hs h => ?_⟩
  · rw [exec_init_lineAt h]
    exact hcleared
  · exact step_keeps_lines hcleared (fun _ _ d hmiss _ => Line.tagsDistinct_install hmiss d) h hs

/-- The transitions of R39: (0,0,0) to (1,0,1) to (1,1,0), and from there between (1,1,0) and (1,1,1). -/
theorem Line.Reachable.install {x : Line} (h : x.Reachable) (g : CacheTag) (d : Word32) :
    (x.install g d).Reachable := by
  obtain ⟨⟨d0, g0, v0⟩, ⟨d1, g1, v1⟩, o⟩ := x
  simp only [Line.Reachable, Prod.mk.injEq] at h
  obtain ⟨rfl, rfl, rfl⟩ | ⟨rfl, rfl, rfl⟩ | ⟨rfl, rfl, rfl⟩ | ⟨rfl, rfl, rfl⟩ := h
  · rw [Line.install_of_victim_zero rfl]
    exact .inr (.inl rfl)
  · rw [Line.install_of_victim_one rfl]
    exact .inr (.inr (.inl rfl))
  · rw [Line.install_of_victim_zero rfl]
    exact .inr (.inr (.inr rfl))
  · rw [Line.install_of_victim_one rfl]
    exact .inr (.inr (.inl rfl))

/-- Settles O48: INIT leaves every line (0,0,0), and an install takes a reachable line to a reachable one. -/
theorem stepKeepsLinesReachable : Obligations.StepKeepsLinesReachable := by
  refine ⟨fun s t h l => ?_, fun s t hs h => ?_⟩
  · rw [exec_init_lineAt h]
    rfl
  · exact step_keeps_lines (.inl rfl) (fun _ g d _ hx => hx.install g d) h hs

/-! ### `init` (R30) -/

theorem exec_query_before_init {i : Instr} (hf : s.fault = none) (hi : s.init = false) (hq : i.isQuery = true) :
    exec i s = .next { s with fault := some (.notInitialized (encode i)) } := by
  cases i with
  | init => cases hq
  | xlate va => exact (exec_xlate_eq_next s).2 ⟨hf, .inl ⟨hi, rfl⟩⟩
  | fetchb pa => exact (exec_fetchb_eq_next s).2 ⟨hf, .inl ⟨hi, rfl⟩⟩

theorem step_keeps_init (h : step s = .next t) (hs : s.init = true) : t.init = true :=
  step_keeps_of_bodies (P := fun a => a.init = true) (fun _ _ _ => id) (fun _ _ => exec_init_init)
    (fun a va ha => (a.translate_init va).trans ha) (fun a pa ha => (a.fetchByte_init pa).trans ha) h hs

/-- Settles O18: the start value, INIT's own write, the step invariant and the check every query makes first. -/
theorem initFlag : Obligations.InitFlag :=
  ⟨rfl, fun _ _ => exec_init_init, fun _ _ => step_keeps_init, fun _ _ => exec_query_before_init⟩

/-! ### The page table and the allocator's calls (R25) -/

/-- What a command does to the page table: nothing, with no call of the allocator; or one call for a page that was invalid,
whose entry then holds the answer. `cs` are the command's collaborator calls. -/
def PtStep (s t : State) (cs : List ExternalCall) : Prop :=
  (t.pt = s.pt ∧ ∀ v p, ExternalCall.allocFrame v p ∉ cs) ∨
  ∃ v p e, (s.ptAt v).valid = false ∧ t.pt = (s.setPt v ⟨p, true⟩).pt ∧ cs = [.allocFrame v p, .logEntry e]

theorem State.translate_ptStep (s : State) (va : Word32) :
    ∃ cs, (s.translate va).calls = s.calls ++ cs ∧ PtStep s (s.translate va) cs := by
  obtain ⟨-, h⟩ | ⟨-, p, -, h⟩ | ⟨-, -, p, -, h⟩ | ⟨-, -, hv, h⟩ := s.translate_cases va <;> rw [h]
  · exact ⟨[.logEntry _], rfl, .inl ⟨rfl, by simp⟩⟩
  · exact ⟨[.logEntry _], rfl, .inl ⟨rfl, by simp⟩⟩
  · exact ⟨[.logEntry _], rfl, .inl ⟨rfl, by simp⟩⟩
  · exact ⟨[.allocFrame _ _, .logEntry _], List.append_assoc ..,
      .inr ⟨_, _, _, s.ptLookup_eq_none.1 hv, rfl, rfl⟩⟩

theorem State.fetchByte_ptStep (s : State) (pa : Word32) :
    ∃ cs, (s.fetchByte pa).calls = s.calls ++ cs ∧ PtStep s (s.fetchByte pa) cs := by
  obtain ⟨-, h⟩ | ⟨-, w, -, h⟩ | ⟨-, -, h⟩ := s.fetchByte_cases pa <;> rw [h]
  · exact ⟨[], by simp [State.raise_eq], .inl ⟨by rw [State.raise_eq], by simp⟩⟩
  · exact ⟨[.logEntry _], rfl, .inl ⟨rfl, by simp⟩⟩
  · exact ⟨[.memRead _ _, .logEntry _], List.append_assoc .., .inl ⟨rfl, by simp⟩⟩

theorem exec_ptStep {i : Instr} (h : exec i s = .next t) (hi : i ≠ .init) :
    ∃ cs, t.calls = s.calls ++ cs ∧ PtStep s t cs := by
  obtain ⟨-, ⟨-, -, rfl⟩ | ⟨rfl, -⟩ | ⟨-, va, -, rfl⟩ | ⟨-, pa, -, rfl⟩⟩ := exec_cases s h
  · exact ⟨[], (List.append_nil _).symm, .inl ⟨rfl, by simp⟩⟩
  · exact absurd rfl hi
  · exact s.translate_ptStep va
  · exact s.fetchByte_ptStep pa

theorem PtStep.ptAt_of_valid {cs : List ExternalCall} (h : PtStep s t cs) {v : Vpn} (hv : (s.ptAt v).valid = true) :
    t.ptAt v = s.ptAt v := by
  obtain ⟨hpt, -⟩ | ⟨u, p, -, hu, hpt, -⟩ := h
  · exact State.ptAt_eq_of_pt_eq hpt v
  · have hne : u ≠ v := by
      rintro rfl
      rw [hv] at hu
      cases hu
    rw [State.ptAt_eq_of_pt_eq hpt, State.ptAt_setPt, if_neg hne]

/-- R25 for the collaborator calls `cs`: a page's entry is valid iff the allocator was called for it among them, and then
it holds one of their answers. -/
def State.PtLoadedBy (s : State) (cs : List ExternalCall) : Prop :=
  ∀ v, ((s.ptAt v).valid = true ↔ ∃ p, ExternalCall.allocFrame v p ∈ cs) ∧
    ((s.ptAt v).valid = true → ExternalCall.allocFrame v (s.ptAt v).ppn ∈ cs)

theorem State.PtLoadedBy.of_ptStep {cs ds : List ExternalCall} (h : s.PtLoadedBy cs) (hst : PtStep s t ds) :
    t.PtLoadedBy (cs ++ ds) := by
  intro v
  obtain ⟨hiff, hans⟩ := h v
  obtain ⟨hpt, hno⟩ | ⟨u, p, e, -, hpt, rfl⟩ := hst
  · simpa [State.ptAt_eq_of_pt_eq hpt, hno] using And.intro hiff hans
  · rw [State.ptAt_eq_of_pt_eq hpt, State.ptAt_setPt]
    by_cases huv : u = v
    · subst huv
      simp
    · simpa [huv, Ne.symm huv] using And.intro hiff hans

/-- `PtLoadedBy` for the calls made after the history `base`. -/
def State.PtLoadedSince (base : List ExternalCall) (s : State) : Prop :=
  ∃ cs, s.calls = base ++ cs ∧ s.PtLoadedBy cs

theorem exec_init_ptLoadedSince (h : exec .init s = .next t) : t.PtLoadedSince t.calls := by
  refine ⟨[], (List.append_nil _).symm, fun v => ?_⟩
  rw [exec_init_ptAt h]
  simp [PtEntry.cleared]

theorem State.PtLoadedSince.of_exec {base : List ExternalCall} {i : Instr} (hs : s.PtLoadedSince base)
    (h : exec i s = .next t) (hi : i ≠ .init) : t.PtLoadedSince base := by
  obtain ⟨cs, hcs, hloaded⟩ := hs
  obtain ⟨ds, hds, hst⟩ := exec_ptStep h hi
  exact ⟨cs ++ ds, by rw [hds, hcs, List.append_assoc], hloaded.of_ptStep hst⟩

/-- Settles O31: right after INIT no entry is valid and no call is counted; each later command loads an invalid page with
the answer of its own call, or leaves the page table alone and does not call the allocator. -/
theorem pageTableValidIffLoaded : Obligations.PageTableValidIffLoaded := by
  refine ⟨fun s t u is hst hno htu => ?_, fun s t i v h hi hv => ?_⟩
  · obtain ⟨cs, hcs, hloaded⟩ : u.PtLoadedSince t.calls :=
      execAll_keeps (fun i hmem a b hab ha => ha.of_exec hab (ne_of_mem_of_not_mem hmem hno)) htu
        (exec_init_ptLoadedSince hst)
    rw [hcs, List.drop_left]
    exact hloaded
  · obtain ⟨_, -, hpt⟩ := exec_ptStep h hi
    exact hpt.ptAt_of_valid hv

/-! ### INIT (R40, R162) -/

/-- Settles O19: INIT's next state, read field by field. -/
theorem initSetsEveryReset : Obligations.InitSetsEveryReset := by
  intro s hf
  have h := (exec_init_eq_next s).2 ⟨hf, rfl⟩
  exact ⟨_, h, exec_init_tlbAt h, exec_init_ptAt h, exec_init_lineAt h, rfl, rfl, rfl, rfl, rfl, rfl, rfl, rfl⟩

end Sys2Proof.Machine
end

section
/-! The address decomposer as arithmetic (spec/20_memory.md R51-R53), where a step can stop (R60,
spec/60_exceptions.md R174), the collaborator calls of a command (R66) and the stability of translations (R71). -/

namespace Sys2Proof.Machine

variable {s t : State}

/-! ### Bit fields as arithmetic (R51, R52) -/

/-- A bit field, as a number, is a quotient and a remainder. -/
theorem toNat_extractLsb'_eq_div_mod {w : Nat} (x : BitVec w) (lo n : Nat) :
    (x.extractLsb' lo n).toNat = x.toNat / 2 ^ lo % 2 ^ n := by
  rw [BitVec.extractLsb'_toNat, Nat.shiftRight_eq_div_pow]

theorem vaLegal_iff (va : Word32) : vaLegal va = true ↔ va.toNat < 2 ^ 18 := by
  rw [vaLegal, beq_iff_eq, ← BitVec.toNat_inj, toNat_extractLsb'_eq_div_mod]
  have hva := va.isLt
  simp only [BitVec.ofNat_eq_ofNat, BitVec.toNat_ofNat]
  omega

theorem vaLegal_of_msb {va : Word32} (h : va.msb = true) : vaLegal va = false := by
  have hge := BitVec.msb_eq_true_iff_two_mul_ge.1 h
  rw [← Bool.not_eq_true, vaLegal_iff]
  omega

theorem vpnOf_toNat (va : Word32) : (vpnOf va).toNat = va.toNat / 2 ^ 9 % 2 ^ 9 :=
  toNat_extractLsb'_eq_div_mod va 9 9

theorem vpoOf_toNat (va : Word32) : (vpoOf va).toNat = va.toNat % 2 ^ 9 := by
  rw [vpoOf, toNat_extractLsb'_eq_div_mod, Nat.pow_zero, Nat.div_one]

theorem tlbIndexOf_toNat (v : Vpn) : (tlbIndexOf v).toNat = v.toNat % 2 ^ 4 := by
  rw [tlbIndexOf, toNat_extractLsb'_eq_div_mod, Nat.pow_zero, Nat.div_one]

theorem tlbTagOf_toNat (v : Vpn) : (tlbTagOf v).toNat = v.toNat / 2 ^ 4 % 2 ^ 5 :=
  toNat_extractLsb'_eq_div_mod v 4 5

theorem vpnOf_append_vpoOf (va : Word32) : vpnOf va ++ vpoOf va = va.setWidth 18 := by
  rw [vpnOf, vpoOf, BitVec.extractLsb'_append_extractLsb'_eq_extractLsb' (by rfl),
    BitVec.setWidth_eq_extractLsb' (by decide)]

/-- Settles O7: each field by its quotient and remainder; the index and the tag are fields of the page number. -/
theorem virtualAddressFields : Obligations.VirtualAddressFields := by
  intro va
  refine ⟨vaLegal_iff va, vaLegal_of_msb, vpnOf_toNat va, vpoOf_toNat va, ?_, ?_, vpnOfTlb_tag_index (vpnOf va),
    vpnOf_append_vpoOf va⟩
  · rw [tlbIndexOf_toNat, vpnOf_toNat]
    omega
  · rw [tlbTagOf_toNat, vpnOf_toNat]
    omega

/-! ### The form of a translated address (R53) -/

theorem paOf_toNat (ppn : Ppn) (vpo : Vpo) : (paOf ppn vpo).toNat = ppn.toNat * 2 ^ 9 + vpo.toNat := by
  have hppn := ppn.isLt
  have hvpo := vpo.isLt
  have happend : (ppn ++ vpo).toNat = ppn.toNat * 2 ^ 9 + vpo.toNat := by
    rw [BitVec.toNat_append, ← Nat.shiftLeft_add_eq_or_of_lt hvpo, Nat.shiftLeft_eq]
  rw [paOf, BitVec.toNat_setWidth, happend]
  omega

/-- Settles O9: the fields of `ppn * 512 + vpo`, where `ppn` has 13 bits and `vpo` has 9. -/
theorem translatedAddressForm : Obligations.TranslatedAddressForm := by
  intro ppn vpo
  have hpa := paOf_toNat ppn vpo
  have hppn := ppn.isLt
  have hvpo := vpo.isLt
  refine ⟨hpa, BitVec.eq_of_toNat_eq ?_, BitVec.eq_of_toNat_eq ?_, BitVec.eq_of_toNat_eq ?_, fun h => ?_⟩
  · rw [toNat_extractLsb'_eq_div_mod, hpa]
    simp only [BitVec.ofNat_eq_ofNat, BitVec.toNat_ofNat]
    omega
  · rw [ctagOf, toNat_extractLsb'_eq_div_mod, hpa]
    omega
  · rw [vpoOf_toNat, hpa]
    omega
  · rw [h] at hpa
    simp only [BitVec.ofNat_eq_ofNat, BitVec.toNat_ofNat] at hpa
    omega

/-! ### Where a command and a step stop (R60, R174) -/

theorem takeQuery_eq_takeCommand (cmd : CmdWord) (s : State) (body : State → State) :
    ∃ body', takeQuery cmd s body = takeCommand s body' := ⟨_, rfl⟩

/-- Every command makes check (1) of R175 first and then runs to completion. -/
theorem exec_eq_takeCommand (i : Instr) (s : State) : ∃ body, exec i s = takeCommand s body := by
  cases i with
  | init => exact ⟨_, show execInit s = _ from rfl⟩
  | xlate va => exact takeQuery_eq_takeCommand (encode (.xlate va)) s fun s => s.translate va
  | fetchb pa => exact takeQuery_eq_takeCommand (encode (.fetchb pa)) s fun s => s.fetchByte pa

/-- So does a step, idle or with a word taken from the port. -/
theorem step_eq_takeCommand (s : State) : ∃ body, step s = takeCommand s body := by
  cases hf : s.fault with
  | some f => exact ⟨id, by simp [step, takeCommand, hf]⟩
  | none =>
    cases hc : s.commands with
    | nil => exact ⟨id, by simp [step, takeCommand, State.nextCommand, hf, hc]⟩
    | cons w ws =>
      cases hd : decode w with
      | instr i =>
        obtain ⟨body, hbody⟩ := exec_eq_takeCommand i { s with commands := ws }
        refine ⟨fun a => body { a with commands := ws }, ?_⟩
        simpa [step, State.nextCommand, hf, hc, hd, takeCommand] using hbody
      | illegal why =>
        refine ⟨fun a => State.raise { a with commands := ws } (.illegalCommand w), ?_⟩
        simp [step, State.nextCommand, hf, hc, hd, takeIllegal, takeCommand]

theorem exec_eq_fault {i : Instr} {f : Fault} : exec i s = .fault f ↔ s.fault = some f := by
  obtain ⟨body, h⟩ := exec_eq_takeCommand i s
  rw [h, takeCommand_eq_fault]

theorem exec_ne_refused (i : Instr) (r : Refusal) : exec i s ≠ .refused r := by
  obtain ⟨body, h⟩ := exec_eq_takeCommand i s
  rw [h]
  exact takeCommand_ne_refused s

theorem step_eq_fault {f : Fault} : step s = .fault f ↔ s.fault = some f := by
  obtain ⟨body, h⟩ := step_eq_takeCommand s
  rw [h, takeCommand_eq_fault]

theorem step_ne_refused (r : Refusal) : step s ≠ .refused r := by
  obtain ⟨body, h⟩ := step_eq_takeCommand s
  rw [h]
  exact takeCommand_ne_refused s

/-- Settles O14: a step and a command are both `takeCommand` of some body, which stops only at a recorded fault. -/
theorem nothingStopsAHealthyInstance : Obligations.NothingStopsAHealthyInstance :=
  fun _ => ⟨step_ne_refused, fun _ => step_eq_fault.1, exec_ne_refused, fun _ _ => exec_eq_fault.1⟩

/-! ### The collaborator calls of a command (R66) -/

/-- A translation that records no fault ran its body: INIT had run. -/
theorem exec_xlate_eq_translate {va : Word32} (h : exec (.xlate va) s = .next t) (hf : t.fault = none) :
    t = s.translate va := by
  obtain ⟨-, ⟨-, rfl⟩ | ⟨-, ht⟩⟩ := (exec_xlate_eq_next s).1 h
  · cases hf
  · exact ht

theorem exec_fetchb_eq_fetchByte {pa : Word32} (h : exec (.fetchb pa) s = .next t) (hf : t.fault = none) :
    t = s.fetchByte pa := by
  obtain ⟨-, ⟨-, rfl⟩ | ⟨-, ht⟩⟩ := (exec_fetchb_eq_next s).1 h
  · cases hf
  · exact ht

theorem exec_init_calls (h : exec .init s = .next t) : t.calls = s.calls := by
  obtain ⟨-, rfl⟩ := (exec_init_eq_next s).1 h
  rfl

/-- A query's event is its last call, after `first` exactly where the event is of the kind `slow`. -/
def LogsAfter (slow : Kind) (first : ExternalCall) (s t : State) : Prop :=
  ∃ k v, t.log = s.log ++ [⟨k, v⟩] ∧
    (k = slow → t.calls = s.calls ++ [first, .logEntry ⟨k, v⟩]) ∧
    (k ≠ slow → t.calls = s.calls ++ [.logEntry ⟨k, v⟩])

theorem LogsAfter.of_alone {slow k : Kind} {first : ExternalCall} {v : Word32} (hk : k ≠ slow)
    (hlog : t.log = s.log ++ [⟨k, v⟩]) (hcalls : t.calls = s.calls ++ [.logEntry ⟨k, v⟩]) : LogsAfter slow first s t :=
  ⟨k, v, hlog, fun h => absurd h hk, fun _ => hcalls⟩

theorem LogsAfter.of_slow {slow : Kind} {first : ExternalCall} {v : Word32} (hlog : t.log = s.log ++ [⟨slow, v⟩])
    (hcalls : t.calls = s.calls ++ [first] ++ [.logEntry ⟨slow, v⟩]) : LogsAfter slow first s t :=
  ⟨slow, v, hlog, fun _ => by rw [hcalls, List.append_assoc]; rfl, fun h => absurd rfl h⟩

theorem State.translate_logsAfter (s : State) (va : Word32) :
    LogsAfter .addressFromPageFaultHandler (.allocFrame (vpnOf va) (s.frameAnswer (vpnOf va))) s (s.translate va) := by
  obtain ⟨-, h⟩ | ⟨-, p, -, h⟩ | ⟨-, -, p, -, h⟩ | ⟨-, -, -, h⟩ := s.translate_cases va <;> rw [h]
  · exact .of_alone (k := .illegalVirtual) (by decide) rfl rfl
  · exact .of_alone (k := .addressFromTlb) (by decide) rfl rfl
  · exact .of_alone (k := .addressFromPageTable) (by decide) rfl rfl
  · exact .of_slow rfl rfl

theorem State.fetchByte_logsAfter {pa : Word32} (hf : (s.fetchByte pa).fault = none) :
    LogsAfter .dataFromMemory (.memRead pa (s.wordAnswer pa)) s (s.fetchByte pa) := by
  obtain ⟨-, h⟩ | ⟨-, w, -, h⟩ | ⟨-, -, h⟩ := s.fetchByte_cases pa <;> rw [h] at hf ⊢
  · rw [State.raise_eq] at hf
    cases hf
  · exact .of_alone (k := .dataFromCache) (by decide) rfl rfl
  · exact .of_slow rfl rfl

/-- Settles O52: INIT calls nobody, and each path of a query makes its event the last call. -/
theorem callOrder : Obligations.CallOrder := by
  refine fun s t i h hf => ⟨?_, fun va => ?_, fun pa => ?_⟩ <;> rintro rfl
  · exact exec_init_calls h
  · obtain rfl := exec_xlate_eq_translate h hf
    exact s.translate_logsAfter va
  · obtain rfl := exec_fetchb_eq_fetchByte h hf
    exact State.fetchByte_logsAfter hf

/-! ### Translations are stable (R71) -/

theorem exec_xlate_ready (h : s.Ready) (va : Word32) : exec (.xlate va) s = .next (s.translate va) :=
  takeQuery_ready (cmd := encode (.xlate va)) s h fun s => s.translate va

/-- The invariant between two INITs: queries are taken, the TLB is in the page table (R38), and page `v` is mapped to
frame `p`. -/
def State.Maps (v : Vpn) (p : Ppn) (s : State) : Prop := s.init = true ∧ s.TlbInPt ∧ s.ptAt v = ⟨p, true⟩

/-- A mapped page is never loaded again, so every command but INIT keeps its mapping. -/
theorem State.Maps.of_exec {v : Vpn} {p : Ppn} {i : Instr} (hs : s.Maps v p) (h : exec i s = .next t) (hi : i ≠ .init) :
    t.Maps v p := by
  obtain ⟨hinit, htlb, hpt⟩ := hs
  obtain ⟨_, -, hstep⟩ := exec_ptStep h hi
  have hv : t.ptAt v = ⟨p, true⟩ := (hstep.ptAt_of_valid (by rw [hpt])).trans hpt
  obtain ⟨-, ⟨hno, -, -⟩ | ⟨rfl, -⟩ | ⟨-, va, -, rfl⟩ | ⟨-, pa, -, rfl⟩⟩ := exec_cases s h
  · rw [hinit] at hno
    cases hno
  · exact absurd rfl hi
  · exact ⟨(s.translate_init va).trans hinit, htlb.translate va, hv⟩
  · exact ⟨(s.fetchByte_init pa).trans hinit, htlb.fetchByte pa, hv⟩

/-- A legal translation answers with the frame that the page table holds for the page afterwards; on a page fault the page
was not mapped, and that frame is the allocator's answer. -/
theorem State.translate_answer (hs : s.TlbInPt) {va : Word32} (hva : vaLegal va = true) :
    ∃ p k, (s.translate va).ptAt (vpnOf va) = ⟨p, true⟩ ∧
      (s.translate va).responses = s.responses ++ [⟨k, paOf p (vpoOf va)⟩] ∧
      (k = .addressFromPageFaultHandler → (s.ptAt (vpnOf va)).valid = false ∧ p = s.frameAnswer (vpnOf va)) := by
  obtain ⟨hno, -⟩ | ⟨-, p, hp, h⟩ | ⟨-, -, p, hp, h⟩ | ⟨-, -, hv, h⟩ := s.translate_cases va
  · rw [hva] at hno
    cases hno
  · have hentry := s.tlbLookup_eq_some.1 hp
    have hpt := hs (tlbIndexOf (vpnOf va)) (by rw [hentry])
    rw [hentry, vpnOfTlb_tag_index] at hpt
    exact ⟨p, .addressFromTlb, by rw [h]; exact hpt, by rw [h]; rfl, fun hk => by cases hk⟩
  · exact ⟨p, .addressFromPageTable, by rw [h]; exact s.ptLookup_eq_some.1 hp, by rw [h]; rfl, fun hk => by cases hk⟩
  · exact ⟨s.frameAnswer (vpnOf va), .addressFromPageFaultHandler, by rw [h]; exact State.ptAt_setPt_self _ _ _,
      by rw [h]; rfl, fun _ => ⟨s.ptLookup_eq_none.1 hv, rfl⟩⟩

/-- A mapped page's translation answers its frame, with no page fault. -/
theorem State.Maps.translate_answer {v : Vpn} {p : Ppn} (hs : s.Maps v p) {va : Word32} (hva : vaLegal va = true)
    (hvpn : vpnOf va = v) :
    ∃ k, (s.translate va).responses = s.responses ++ [⟨k, paOf p (vpoOf va)⟩] ∧ k ≠ .addressFromPageFaultHandler := by
  subst hvpn
  obtain ⟨-, htlb, hpt⟩ := hs
  obtain ⟨q, k, hq, hresp, hk⟩ := State.translate_answer htlb hva
  obtain ⟨_, -, hstep⟩ := s.translate_ptStep va
  have hkept := hstep.ptAt_of_valid (v := vpnOf va) (by rw [hpt])
  rw [hq, hpt] at hkept
  obtain rfl : q = p := (PtEntry.mk.inj hkept).1
  refine ⟨k, hresp, fun hfault => ?_⟩
  obtain ⟨hv, -⟩ := hk hfault
  rw [hpt] at hv
  cases hv

/-- Settles O30: the first translation maps the page to the frame it answers, the commands in between keep that mapping, and
the last one reads it. -/
theorem translationIsStable : Obligations.TranslationIsStable := by
  intro s t u is a b hs htlb ha hb hab hst hno htu hu
  obtain ⟨hinit, hf⟩ := hs
  rw [exec_xlate_ready ⟨hinit, hf⟩] at hst
  obtain rfl := Host.Outcome.next.inj hst
  obtain ⟨p, k, hpt, hresp, hk⟩ := State.translate_answer htlb ha
  have hmaps : (s.translate a).Maps (vpnOf a) p := ⟨(s.translate_init a).trans hinit, htlb.translate a, hpt⟩
  have hkept : u.Maps (vpnOf a) p :=
    execAll_keeps (fun i hi _ _ h hm => hm.of_exec h (ne_of_mem_of_not_mem hi hno)) htu hmaps
  obtain ⟨k', hresp', hk'⟩ := hkept.translate_answer hb hab.symm
  obtain ⟨huinit, -, -⟩ := hkept
  exact ⟨_, p, k, k', exec_xlate_ready ⟨huinit, hu⟩ b, hresp, hresp', hk', fun h => (hk h).2⟩

end Sys2Proof.Machine
end

section
/-! The fields of a command word (spec/30_encoding.md R81), what the decoder reads from them (R82, R85), and what a step does
with a word that spells no command (R84). -/

namespace Sys2Proof

/-! ### Masks and the fields of a word (R81) -/

theorem append_eq_append_iff {m n : Nat} {a b : BitVec m} {c d : BitVec n} : a ++ c = b ++ d ↔ a = b ∧ c = d := by
  constructor
  · intro h
    obtain rfl : c = d := by
      have hlow := congrArg (BitVec.extractLsb' 0 n) h
      rwa [BitVec.extractLsb'_append_eq_right, BitVec.extractLsb'_append_eq_right] at hlow
    exact ⟨(BitVec.append_left_inj c).1 h, rfl⟩
  · rintro ⟨rfl, rfl⟩
    rfl

namespace CmdWord

theorem eq_fields_iff {w : CmdWord} {o : BitVec 8} {r : BitVec 24} {v : Word32} :
    w = (o ++ r) ++ v ↔ w.op = o ∧ w.rsv = r ∧ w.operand = v := by
  rw [← append_eq_append_iff.trans ((and_congr_left' append_eq_append_iff).trans and_assoc), w.fields_append]

theorem and_fields (w : CmdWord) (o : BitVec 8) (r : BitVec 24) (v : Word32) :
    w &&& ((o ++ r) ++ v) = ((w.op &&& o) ++ (w.rsv &&& r)) ++ (w.operand &&& v) := by
  rw [← BitVec.and_append, ← BitVec.and_append, w.fields_append]

theorem operand_eq_setWidth (w : CmdWord) : w.operand = w.setWidth 32 :=
  (BitVec.setWidth_eq_extractLsb' (by decide)).symm

/-- The mask of a row with an operand keeps the opcode and the reserved field (R85). -/
theorem and_highMask_eq_iff {w : CmdWord} {o : BitVec 8} :
    w &&& 0xFFFFFFFF00000000 = (o ++ (0 : BitVec 24)) ++ (0 : Word32) ↔ w.op = o ∧ w.rsv = 0 := by
  rw [show (0xFFFFFFFF00000000 : CmdWord) = (BitVec.allOnes 8 ++ BitVec.allOnes 24) ++ (0 : Word32) by decide,
    and_fields, append_eq_append_iff, append_eq_append_iff, BitVec.and_allOnes, BitVec.and_allOnes]
  exact and_iff_left BitVec.and_zero

/-- The fields of a word of a row with an operand, by the row's mask and match. -/
theorem fields_iff_highMask {w : CmdWord} {o : BitVec 8} {v : Word32} :
    w.op = o ∧ w.rsv = 0 ∧ w.operand = v ↔
      w &&& 0xFFFFFFFF00000000 = (o ++ (0 : BitVec 24)) ++ (0 : Word32) ∧ v = w.setWidth 32 := by
  rw [and_highMask_eq_iff, and_assoc, ← operand_eq_setWidth, eq_comm (a := v)]

/-! ### The three checks of R84, read from the fields -/

theorem ushiftRight_toNat (w : CmdWord) : (w >>> 56).toNat = w.op.toNat := by
  have hw := w.isLt
  rw [op, Machine.toNat_extractLsb'_eq_div_mod, BitVec.toNat_ushiftRight, Nat.shiftRight_eq_div_pow]
  omega

theorem opKnown_iff {w : CmdWord} : w.opKnown = true ↔ w.op < 3 := by
  rw [opKnown, decide_eq_true_iff, BitVec.lt_def, BitVec.lt_def, ushiftRight_toNat]
  rfl

theorem rsvZero_iff {w : CmdWord} : w.rsvZero = true ↔ w.rsv = 0 := by
  rw [rsvZero, decide_eq_true_iff,
    show (0x00FFFFFF00000000 : CmdWord) = ((0 : BitVec 8) ++ BitVec.allOnes 24) ++ (0 : Word32) by decide, and_fields,
    show (0 : CmdWord) = ((0 : BitVec 8) ++ (0 : BitVec 24)) ++ (0 : Word32) by decide, append_eq_append_iff,
    append_eq_append_iff, BitVec.and_allOnes]
  simp

theorem initOperandZero_iff {w : CmdWord} : w.initOperandZero = true ↔ (w.op = 0 → w.operand = 0) := by
  have hop : w >>> 56 = 0 ↔ w.op = 0 := by
    rw [← BitVec.toNat_inj, ← BitVec.toNat_inj, ushiftRight_toNat]
    rfl
  rw [initOperandZero, decide_eq_true_iff, hop,
    show (0x00000000FFFFFFFF : CmdWord) = ((0 : BitVec 8) ++ (0 : BitVec 24)) ++ BitVec.allOnes 32 by decide, and_fields,
    show (0 : CmdWord) = ((0 : BitVec 8) ++ (0 : BitVec 24)) ++ (0 : Word32) by decide, append_eq_append_iff,
    BitVec.and_allOnes]
  simp

theorem wellFormed_iff {w : CmdWord} :
    w.wellFormed = true ↔ w.op < 3 ∧ w.rsv = 0 ∧ (w.op = 0 → w.operand = 0) := by
  rw [wellFormed, Bool.and_eq_true, Bool.and_eq_true, opKnown_iff, rsvZero_iff, initOperandZero_iff, and_assoc]

end CmdWord

/-! ### The decoder (R82, R85) -/

/-- The decoder reads a command exactly where the three fields are that command's. -/
theorem decode_eq_instr_iff {w : CmdWord} {i : Instr} :
    decode w = .instr i ↔ w.op = i.opcode ∧ w.rsv = 0 ∧ w.operand = i.operandField := by
  constructor
  · intro h
    unfold decode at h
    split_ifs at h with hunknown hrsv hzero hoperand hone <;> cases h
    · exact ⟨hzero, not_not.1 hrsv, hoperand⟩
    · exact ⟨hone, not_not.1 hrsv, rfl⟩
    · refine ⟨?_, not_not.1 hrsv, rfl⟩
      simp only [Instr.opcode]
      bv_omega
  · rintro ⟨hop, hrsv, hoperand⟩
    cases i <;> simp_all [decode, Instr.opcode, Instr.operandField]

/-- Each word is a command's or illegal (R85). -/
theorem exists_decode_eq_illegal_iff {w : CmdWord} :
    (∃ why, decode w = .illegal why) ↔ ∀ i, decode w ≠ .instr i := by
  cases decode w <;> simp

theorem decode_eq_init_iff {w : CmdWord} : decode w = .instr .init ↔ w = 0 :=
  decode_eq_instr_iff.trans CmdWord.eq_fields_iff.symm

theorem decode_eq_xlate_iff {w : CmdWord} {va : Word32} :
    decode w = .instr (.xlate va) ↔
      w &&& 0xFFFFFFFF00000000 = 0x0100000000000000 ∧ va = w.setWidth 32 :=
  decode_eq_instr_iff.trans (CmdWord.fields_iff_highMask (o := 1))

theorem decode_eq_fetchb_iff {w : CmdWord} {pa : Word32} :
    decode w = .instr (.fetchb pa) ↔
      w &&& 0xFFFFFFFF00000000 = 0x0200000000000000 ∧ pa = w.setWidth 32 :=
  decode_eq_instr_iff.trans (CmdWord.fields_iff_highMask (o := 2))

/-- Settles O3: each row of the table says what the fields of its words are, and an illegal word is one of no row. -/
theorem decoderReadsTheOpcodeTable : Obligations.DecoderReadsTheOpcodeTable := by
  refine fun w => ⟨decode_eq_init_iff, fun va => decode_eq_xlate_iff, fun pa => decode_eq_fetchb_iff, ?_⟩
  rw [exists_decode_eq_illegal_iff]
  constructor
  · exact fun h => ⟨fun h0 => h _ (decode_eq_init_iff.2 h0), fun h1 => h _ (decode_eq_xlate_iff.2 ⟨h1, rfl⟩),
      fun h2 => h _ (decode_eq_fetchb_iff.2 ⟨h2, rfl⟩)⟩
  · rintro ⟨hinit, hxlate, hfetchb⟩ i h
    cases i with
    | init => exact hinit (decode_eq_init_iff.1 h)
    | xlate va => exact hxlate (decode_eq_xlate_iff.1 h).1
    | fetchb pa => exact hfetchb (decode_eq_fetchb_iff.1 h).1

theorem Instr.opcode_lt (i : Instr) : i.opcode < 3 := by
  cases i <;> simp [Instr.opcode]

theorem Instr.operandField_of_opcode_zero {i : Instr} (h : i.opcode = 0) : i.operandField = 0 := by
  cases i with
  | init => rfl
  | xlate va => exact absurd h (by simp [Instr.opcode])
  | fetchb pa => exact absurd h (by simp [Instr.opcode])

/-- A word that spells a command passes the three checks of R84. -/
theorem CmdWord.wellFormed_of_decode {w : CmdWord} {i : Instr} (h : decode w = .instr i) : w.wellFormed = true := by
  obtain ⟨hop, hrsv, hoperand⟩ := decode_eq_instr_iff.1 h
  rw [wellFormed_iff, hop, hoperand]
  exact ⟨i.opcode_lt, hrsv, Instr.operandField_of_opcode_zero⟩

namespace Machine

/-- A step takes an illegal word from the port and records its fault. -/
theorem step_of_decode_illegal {s : State} {w : CmdWord} {ws : List CmdWord} {why : IllegalWord} (hf : s.fault = none)
    (hc : s.commands = w :: ws) (hd : decode w = .illegal why) :
    step s = .next { s with commands := ws, fault := some (.illegalCommand w) } := by
  simp only [step, hf, State.nextCommand, hc, hd]
  exact (takeIllegal_eq_next _).2 ⟨rfl, rfl⟩

/-- Settles O4: a word that fails a check of R84 decodes to no command, and a step raises the fault of an illegal word. -/
theorem illegalWordRaisesIllegalCommand : Obligations.IllegalWordRaisesIllegalCommand := by
  intro s w ws hf hc hw
  obtain ⟨why, hd⟩ := exists_decode_eq_illegal_iff.2 fun i h => by
    rw [CmdWord.wellFormed_of_decode h] at hw
    cases hw
  exact step_of_decode_illegal hf hc hd

end Machine

end Sys2Proof
end

section
/-! XLATE path by path (spec/41_translate.md): which of the four outcomes a translation takes (R100, R110, R114), what each
of them answers and writes (R101, R104, R106-R108), the repeat of a translation (R112) and two pages of one TLB index
(R115). -/

namespace Sys2Proof.Machine

variable {s t : State} {va : Word32} {v w : Vpn} {p : Ppn}

/-! ### The condition of each outcome (R100, R114) -/

theorem State.translate_eq_illegalVa (hva : vaLegal va = false) : s.translate va = s.illegalVa va := by
  simp [State.translate, hva]

theorem State.translate_eq_translated (hva : vaLegal va = true) (htlb : s.tlbLookup (vpnOf va) = some p) :
    s.translate va = s.translated .addressFromTlb p va := by
  simp [State.translate, hva, htlb]

theorem State.translate_eq_ptHit (hva : vaLegal va = true) (htlb : s.tlbLookup (vpnOf va) = none)
    (hpt : s.ptLookup (vpnOf va) = some p) : s.translate va = s.ptHit va p := by
  simp [State.translate, hva, htlb, hpt]

theorem State.translate_eq_pageFault (hva : vaLegal va = true) (htlb : s.tlbLookup (vpnOf va) = none)
    (hpt : s.ptLookup (vpnOf va) = none) : s.translate va = s.pageFault va := by
  simp [State.translate, hva, htlb, hpt]

theorem vaLegal_eq_false_of_ne (hva : va.extractLsb' 18 14 ≠ 0) : vaLegal va = false := beq_eq_false_iff_ne.2 hva

/-! ### What each outcome leaves in the tables -/

theorem State.tlbAt_tlbFill (s : State) (v : Vpn) (p : Ppn) (j : TlbIndex) :
    (s.tlbFill v p).tlbAt j = if j = tlbIndexOf v then ⟨p, tlbTagOf v, true⟩ else s.tlbAt j := by
  rw [State.tlbFill, State.tlbAt_setTlb]
  exact if_congr eq_comm rfl rfl

theorem State.tlbLookup_tlbFill (s : State) (v : Vpn) (p : Ppn) : (s.tlbFill v p).tlbLookup v = some p := by
  rw [State.tlbLookup_eq_some, State.tlbAt_tlbFill, if_pos rfl]

theorem State.ptHit_tlbAt (s : State) (va : Word32) (p : Ppn) (j : TlbIndex) :
    (s.ptHit va p).tlbAt j =
      if j = tlbIndexOf (vpnOf va) then ⟨p, tlbTagOf (vpnOf va), true⟩ else s.tlbAt j :=
  s.tlbAt_tlbFill (vpnOf va) p j

theorem State.pageFault_tlbAt (s : State) (va : Word32) (j : TlbIndex) :
    (s.pageFault va).tlbAt j =
      if j = tlbIndexOf (vpnOf va) then ⟨s.frameAnswer (vpnOf va), tlbTagOf (vpnOf va), true⟩ else s.tlbAt j :=
  State.tlbAt_tlbFill ((s.takeFrame (vpnOf va)).setPt (vpnOf va) ⟨s.frameAnswer (vpnOf va), true⟩) (vpnOf va) _ j

theorem State.ptHit_tlbLookup (s : State) (va : Word32) (p : Ppn) : (s.ptHit va p).tlbLookup (vpnOf va) = some p :=
  s.tlbLookup_tlbFill (vpnOf va) p

theorem State.pageFault_tlbLookup (s : State) (va : Word32) :
    (s.pageFault va).tlbLookup (vpnOf va) = some (s.frameAnswer (vpnOf va)) :=
  State.tlbLookup_tlbFill ((s.takeFrame (vpnOf va)).setPt (vpnOf va) ⟨s.frameAnswer (vpnOf va), true⟩) (vpnOf va) _

theorem State.pageFault_ptAt (s : State) (va : Word32) (v : Vpn) :
    (s.pageFault va).ptAt v = if v = vpnOf va then ⟨s.frameAnswer (vpnOf va), true⟩ else s.ptAt v :=
  (s.ptAt_setPt (vpnOf va) ⟨s.frameAnswer (vpnOf va), true⟩ v).trans (if_congr eq_comm rfl rfl)

theorem State.pageFault_ptLookup (s : State) (va : Word32) :
    (s.pageFault va).ptLookup (vpnOf va) = some (s.frameAnswer (vpnOf va)) := by
  rw [State.ptLookup_eq_some, State.pageFault_ptAt, if_pos rfl]

theorem State.pageFault_ptLookup_of_ne (h : v ≠ vpnOf va) : (s.pageFault va).ptLookup v = s.ptLookup v := by
  simp only [State.ptLookup, State.pageFault_ptAt, if_neg h]

theorem State.pageFault_calls (s : State) (va : Word32) :
    (s.pageFault va).calls = s.calls ++ [.allocFrame (vpnOf va) (s.frameAnswer (vpnOf va)),
      .logEntry ⟨.addressFromPageFaultHandler, paOf (s.frameAnswer (vpnOf va)) (vpoOf va)⟩] :=
  List.append_assoc ..

/-! ### XLATE on a ready state, outcome by outcome -/

/-- Settles O22: the range check comes before both tables, and its failure only logs and responds. -/
theorem xlateOutOfRange : Obligations.XlateOutOfRange := by
  intro s va hs hva
  rw [exec_xlate_ready hs, State.translate_eq_illegalVa (vaLegal_eq_false_of_ne hva)]
  rfl

/-- Settles O23: the entry is the one the TLB lookup finds, and a hit only logs and responds. -/
theorem xlateTlbHit : Obligations.XlateTlbHit := by
  intro s va p hs hva hentry
  rw [exec_xlate_ready hs, State.translate_eq_translated hva (s.tlbLookup_eq_some.2 hentry)]
  rfl

/-- Settles O24: the TLB lookup misses, the page-table lookup finds the entry, and the fill writes the one TLB entry. -/
theorem xlatePageTableHit : Obligations.XlatePageTableHit := by
  intro s va p hs hva hmiss hentry
  rw [exec_xlate_ready hs,
    State.translate_eq_ptHit hva (s.tlbLookup_eq_none.2 hmiss) (s.ptLookup_eq_some.2 hentry)]
  exact ⟨_, rfl, s.ptHit_tlbAt va p, rfl, rfl, rfl, rfl, rfl, rfl, rfl, rfl, rfl, rfl⟩

/-- Settles O25: both lookups miss, and the one answer of the allocator goes into both tables. -/
theorem xlatePageFault : Obligations.XlatePageFault := by
  rintro s va _ hs hva hmiss hinvalid rfl
  rw [exec_xlate_ready hs,
    State.translate_eq_pageFault hva (s.tlbLookup_eq_none.2 hmiss) (s.ptLookup_eq_none.2 hinvalid)]
  exact ⟨_, rfl, s.pageFault_tlbAt va, s.pageFault_ptAt va, rfl, rfl, rfl, rfl, rfl, rfl, rfl, s.pageFault_calls va, rfl⟩

/-- Settles O26: each of the four cases of a translation has its own kind, and its condition is the negation of the
conditions before it. -/
theorem xlateClassification : Obligations.XlateClassification := by
  intro s va hs
  rw [exec_xlate_ready hs]
  obtain ⟨hva, h⟩ | ⟨hva, p, hp, h⟩ | ⟨hva, hmiss, p, hp, h⟩ | ⟨hva, hmiss, hinvalid, h⟩ := s.translate_cases va <;>
    rw [h]
  · refine ⟨_, .illegalVirtual, _, _, rfl, rfl, rfl, ?_⟩
    simp [hva]
  · have hentry := s.tlbLookup_eq_some.1 hp
    refine ⟨_, .addressFromTlb, _, _, rfl, rfl, rfl, ?_⟩
    simp [hva, hentry]
  · have hno := not_and.2 (s.tlbLookup_eq_none.1 hmiss)
    have hentry := s.ptLookup_eq_some.1 hp
    refine ⟨_, .addressFromPageTable, _, _, rfl, rfl, rfl, ?_⟩
    simp [hva, hno, hentry]
  · have hno := not_and.2 (s.tlbLookup_eq_none.1 hmiss)
    have hinvalid := s.ptLookup_eq_none.1 hinvalid
    refine ⟨_, .addressFromPageFaultHandler, _, _, rfl, rfl, rfl, ?_⟩
    simp [hva, hno, hinvalid]

/-! ### A repeated translation (R112) -/

theorem State.Ready.translate (h : s.Ready) (va : Word32) : (s.translate va).Ready :=
  ⟨(s.translate_init va).trans h.1, (s.translate_fault va).trans h.2⟩

/-- Every legal translation leaves the frame it answers in the page's TLB entry. -/
theorem State.translate_tlbLookup (hva : vaLegal va = true) :
    ∃ k p, (s.translate va).responses = s.responses ++ [⟨k, paOf p (vpoOf va)⟩] ∧
      (s.translate va).tlbLookup (vpnOf va) = some p := by
  obtain ⟨hno, -⟩ | ⟨-, p, hp, h⟩ | ⟨-, -, p, -, h⟩ | ⟨-, -, -, h⟩ := s.translate_cases va
  · rw [hva] at hno
    cases hno
  · rw [h]
    exact ⟨_, p, rfl, hp⟩
  · rw [h]
    exact ⟨_, p, rfl, s.ptHit_tlbLookup va p⟩
  · rw [h]
    exact ⟨_, _, rfl, s.pageFault_tlbLookup va⟩

/-- Settles O28: the first translation leaves its frame in the TLB, where the second finds it. -/
theorem repeatTranslationHits : Obligations.RepeatTranslationHits := by
  intro s va hs hva
  obtain ⟨k, p, hresp, htlb⟩ := s.translate_tlbLookup hva
  have hsecond := State.translate_eq_translated hva htlb
  exact ⟨_, _, k, _, exec_xlate_ready hs va, exec_xlate_ready (hs.translate va) va, hresp,
    by rw [hsecond]; rfl, by rw [hsecond]; rfl⟩

/-! ### Two pages of one TLB index (R115) -/

theorem tlbIndexOf_vpnOf (va : Word32) : tlbIndexOf (vpnOf va) = va.extractLsb' 9 4 := by
  apply BitVec.eq_of_toNat_eq
  rw [tlbIndexOf_toNat, vpnOf_toNat, toNat_extractLsb'_eq_div_mod]
  omega

theorem tlbTagOf_vpnOf (va : Word32) : tlbTagOf (vpnOf va) = va.extractLsb' 13 5 := by
  apply BitVec.eq_of_toNat_eq
  rw [tlbTagOf_toNat, vpnOf_toNat, toNat_extractLsb'_eq_div_mod]
  omega

/-- Pages that share a TLB entry without being the same page. -/
def TlbRivals (v w : Vpn) : Prop := tlbIndexOf v = tlbIndexOf w ∧ tlbTagOf v ≠ tlbTagOf w

theorem TlbRivals.symm (h : TlbRivals v w) : TlbRivals w v := ⟨h.1.symm, h.2.symm⟩

theorem TlbRivals.ne (h : TlbRivals v w) : v ≠ w := fun heq => h.2 (congrArg tlbTagOf heq)

/-- The TLB holds one of two rivals at a time. -/
theorem TlbRivals.tlbLookup_eq_none (h : TlbRivals v w) (hv : s.tlbLookup v = some p) : s.tlbLookup w = none := by
  obtain ⟨hidx, htag⟩ := h
  rw [State.tlbLookup_eq_none, ← hidx, s.tlbLookup_eq_some.1 hv]
  exact fun _ => htag

/-- Of two rivals, neither loaded, the first is a page fault, the second a page fault that takes the TLB entry, and the
first again a page-table hit. -/
theorem State.translate_rivals {a b : Word32} (h : TlbRivals (vpnOf a) (vpnOf b)) (ha : vaLegal a = true)
    (hb : vaLegal b = true) (htlb : s.tlbLookup (vpnOf a) = none) (hpta : s.ptLookup (vpnOf a) = none)
    (hptb : s.ptLookup (vpnOf b) = none) :
    ((s.translate a).translate b).translate a =
      ((s.pageFault a).pageFault b).ptHit a (s.frameAnswer (vpnOf a)) := by
  rw [State.translate_eq_pageFault ha htlb hpta]
  rw [State.translate_eq_pageFault hb (h.tlbLookup_eq_none (s.pageFault_tlbLookup a))
    ((State.pageFault_ptLookup_of_ne h.symm.ne).trans hptb)]
  exact State.translate_eq_ptHit ha (h.symm.tlbLookup_eq_none ((s.pageFault a).pageFault_tlbLookup b))
    ((State.pageFault_ptLookup_of_ne h.ne).trans (s.pageFault_ptLookup a))

theorem exec_init_tlbLookup (h : exec .init s = .next t) (v : Vpn) : t.tlbLookup v = none := by
  rw [State.tlbLookup_eq_none, exec_init_tlbAt h]
  exact fun hv => by cases hv

theorem exec_init_ptLookup (h : exec .init s = .next t) (v : Vpn) : t.ptLookup v = none := by
  rw [State.ptLookup_eq_none, exec_init_ptAt h]
  rfl

/-- INIT completes where no fault is recorded, and leaves a ready state without an event. -/
theorem exec_init_ready (hf : s.fault = none) : ∃ t, exec .init s = .next t ∧ t.Ready ∧ t.log = s.log :=
  ⟨_, (exec_init_eq_next s).2 ⟨hf, rfl⟩, ⟨rfl, hf⟩, rfl⟩

theorem execAll_cons_of_next {i : Instr} {is : List Instr} (h : exec i s = .next t) :
    execAll (i :: is) s = execAll is t := by
  rw [execAll, h]

theorem execAll_xlate_cons (h : s.Ready) (va : Word32) (is : List Instr) :
    execAll (.xlate va :: is) s = execAll is (s.translate va) :=
  execAll_cons_of_next (exec_xlate_ready h va)

/-- Settles O29: INIT leaves both pages unloaded, and they are rivals for one TLB entry. -/
theorem tlbConflict : Obligations.TlbConflict := by
  intro s a b hf ha hb hidx htag
  simp only [← tlbIndexOf_vpnOf, ← tlbTagOf_vpnOf] at hidx htag ⊢
  obtain ⟨t, hinit, hready, hlog⟩ := exec_init_ready hf
  have hrun : execAll [.init, .xlate a, .xlate b, .xlate a] s =
      .next (((t.translate a).translate b).translate a) := by
    rw [execAll_cons_of_next hinit, execAll_xlate_cons hready, execAll_xlate_cons (hready.translate a),
      execAll_xlate_cons ((hready.translate a).translate b)]
    rfl
  rw [hrun, State.translate_rivals ⟨hidx, htag⟩ ha hb (exec_init_tlbLookup hinit _) (exec_init_ptLookup hinit _)
    (exec_init_ptLookup hinit _)]
  refine ⟨_, paOf (t.frameAnswer (vpnOf a)) (vpoOf a), paOf ((t.pageFault a).frameAnswer (vpnOf b)) (vpoOf b),
    paOf (t.frameAnswer (vpnOf a)) (vpoOf a), rfl, ?_, ?_⟩
  · rw [← hlog]
    exact (List.append_assoc ..).trans (List.append_assoc ..)
  · rw [State.ptHit_tlbAt, if_pos rfl]
    exact ⟨rfl, rfl⟩

end Sys2Proof.Machine
end

section
/-! The fields of a physical address and the bytes of a word as arithmetic (spec/20_memory.md R54-R56), FETCHB path by path
(spec/42_cache.md R130-R135), the lines of the cache over several fetches (R136-R140), and the independence of the two
pipelines (R142). -/

namespace Sys2Proof.Machine

variable {s t : State} {pa : Word32} {x : Line} {g : CacheTag} {w : WayNo}

/-! ### The cache fields and the bytes of a word as arithmetic (R54-R56) -/

theorem paInRange_iff (pa : Word32) : paInRange pa = true ↔ pa.toNat < 2 ^ 22 := by
  rw [paInRange, beq_iff_eq, ← BitVec.toNat_inj, toNat_extractLsb'_eq_div_mod]
  have hpa := pa.isLt
  simp only [BitVec.ofNat_eq_ofNat, BitVec.toNat_ofNat]
  omega

theorem paInRange_eq_false_of_ne (hpa : pa.extractLsb' 22 10 ≠ 0) : paInRange pa = false := beq_eq_false_iff_ne.2 hpa

theorem ctagOf_toNat (pa : Word32) : (ctagOf pa).toNat = pa.toNat / 2 ^ 9 % 2 ^ 13 :=
  toNat_extractLsb'_eq_div_mod pa 9 13

theorem lineOf_toNat (pa : Word32) : (lineOf pa).toNat = pa.toNat / 2 ^ 2 % 2 ^ 5 :=
  toNat_extractLsb'_eq_div_mod pa 2 5

theorem offOf_toNat (pa : Word32) : (offOf pa).toNat = pa.toNat % 2 ^ 2 := by
  rw [offOf, toNat_extractLsb'_eq_div_mod, Nat.pow_zero, Nat.div_one]

theorem alignedWord_toNat (pa : Word32) : (alignedWord pa).toNat = pa.toNat - pa.toNat % 4 := by
  have hpa := pa.isLt
  rw [alignedWord, BitVec.toNat_append, toNat_extractLsb'_eq_div_mod, BitVec.ofNat_eq_ofNat, BitVec.toNat_ofNat,
    Nat.zero_mod, Nat.or_zero, Nat.shiftLeft_eq]
  omega

/-- Settles O8: each field by its quotient and remainder. -/
theorem physicalAddressFields : Obligations.PhysicalAddressFields :=
  fun pa => ⟨paInRange_iff pa, ctagOf_toNat pa, lineOf_toNat pa, offOf_toNat pa, alignedWord_toNat pa⟩

/-- Settles O10: a byte is the bit field of the word at eight times the offset. -/
theorem bytesAreLittleEndian : Obligations.BytesAreLittleEndian :=
  fun w k => toNat_extractLsb'_eq_div_mod w (8 * k.toNat) 8

/-! ### The lookup of a line (R133) -/

theorem Way.hits_iff {y : Way} : y.hits g = true ↔ y.valid = true ∧ y.tag = g := by
  rw [Way.hits, Bool.and_eq_true, beq_iff_eq]

/-- The way a lookup finds, by its valid bit and tag, way 0 before way 1. -/
theorem Line.lookup_eq_some_iff_valid_tag :
    x.lookup g = some w ↔ (x.way w).valid = true ∧ (x.way w).tag = g ∧
      (w = 1 → ¬(x.way0.valid = true ∧ x.way0.tag = g)) := by
  rw [Line.lookup_eq_some, Way.hits_iff, and_assoc, ← Bool.not_eq_true, Way.hits_iff]

theorem Line.lookup_eq_none_iff_forall_tag_ne :
    x.lookup g = none ↔ ∀ u, (x.way u).valid = true → (x.way u).tag ≠ g := by
  simp only [Line.lookup_eq_none, ← Bool.not_eq_true, Way.hits_iff, not_and]
  constructor
  · rintro ⟨h0, h1⟩ u
    obtain rfl | rfl := WayNo.zero_or_one u
    · exact h0
    · exact h1
  · exact fun h => ⟨h 0, h 1⟩

/-! ### The victim and the install (R135, R136) -/

theorem Line.victim_of_way0_invalid (h0 : x.way0.valid = false) : x.victim = 0 := by
  simp [Line.victim, h0]

theorem Line.victim_of_way1_invalid (h0 : x.way0.valid = true) (h1 : x.way1.valid = false) : x.victim = 1 := by
  simp [Line.victim, h0, h1]

theorem Line.victim_of_full (h0 : x.way0.valid = true) (h1 : x.way1.valid = true) : x.victim = x.older := by
  simp [Line.victim, h0, h1]

/-- An install leaves the way that is not the victim. -/
theorem Line.install_way_other (x : Line) (g : CacheTag) (d : Word32) :
    (x.install g d).way (1 - x.victim) = x.way (1 - x.victim) := by
  obtain h | h := WayNo.zero_or_one x.victim
  · rw [Line.install_of_victim_zero h, h]
    rfl
  · rw [Line.install_of_victim_one h, h]
    rfl

/-- After an install on a miss the lookup finds the victim way: the way that stays still does not hit. -/
theorem Line.lookup_install (hmiss : x.lookup g = none) (d : Word32) : (x.install g d).lookup g = some x.victim := by
  have h0 := (Line.lookup_eq_none.1 hmiss).1
  rw [Line.lookup_eq_some, Line.install_victim, Way.hits_iff]
  refine ⟨⟨rfl, rfl⟩, fun hv => ?_⟩
  rw [Line.install_of_victim_one hv]
  exact h0

/-! ### The condition of each outcome of a fetch (R130) -/

theorem exec_fetchb_ready (h : s.Ready) (pa : Word32) : exec (.fetchb pa) s = .next (s.fetchByte pa) :=
  takeQuery_ready (cmd := encode (.fetchb pa)) s h fun s => s.fetchByte pa

theorem execAll_fetchb_cons (h : s.Ready) (pa : Word32) (is : List Instr) :
    execAll (.fetchb pa :: is) s = execAll is (s.fetchByte pa) :=
  execAll_cons_of_next (exec_fetchb_ready h pa)

theorem State.fetchByte_eq_raise (hpa : paInRange pa = false) : s.fetchByte pa = s.raise (.physicalOutOfRange pa) := by
  simp [State.fetchByte, hpa]

theorem State.fetchByte_eq_fetched (hpa : paInRange pa = true)
    (hhit : (s.lineAt (lineOf pa)).lookup (ctagOf pa) = some w) :
    s.fetchByte pa = s.fetched .dataFromCache ((s.lineAt (lineOf pa)).way w).data pa := by
  simp [State.fetchByte, hpa, hhit]

theorem State.fetchByte_eq_cacheMiss (hpa : paInRange pa = true)
    (hmiss : (s.lineAt (lineOf pa)).lookup (ctagOf pa) = none) : s.fetchByte pa = s.cacheMiss pa := by
  simp [State.fetchByte, hpa, hmiss]

theorem State.fetchByte_fault (hpa : paInRange pa = true) : (s.fetchByte pa).fault = s.fault := by
  obtain ⟨hno, -⟩ | ⟨-, w, -, h⟩ | ⟨-, -, h⟩ := s.fetchByte_cases pa
  · rw [hpa] at hno
    cases hno
  · rw [h]
    rfl
  · rw [h]
    rfl

theorem State.Ready.fetchByte (h : s.Ready) (hpa : paInRange pa = true) : (s.fetchByte pa).Ready :=
  ⟨(s.fetchByte_init pa).trans h.1, (State.fetchByte_fault hpa).trans h.2⟩

/-! ### What each outcome leaves in the lines -/

theorem State.cacheMiss_lineAt (s : State) (pa : Word32) (l : LineIndex) :
    (s.cacheMiss pa).lineAt l =
      if lineOf pa = l then (s.lineAt (lineOf pa)).install (ctagOf pa) (s.wordAnswer pa) else s.lineAt l :=
  State.lineAt_setLine (s.takeWord pa) (lineOf pa) _ l

theorem State.cacheMiss_lineAt_self (s : State) (pa : Word32) :
    (s.cacheMiss pa).lineAt (lineOf pa) = (s.lineAt (lineOf pa)).install (ctagOf pa) (s.wordAnswer pa) := by
  rw [State.cacheMiss_lineAt, if_pos rfl]

theorem State.cacheMiss_lineAt_of_ne (s : State) {l : LineIndex} (h : l ≠ lineOf pa) :
    (s.cacheMiss pa).lineAt l = s.lineAt l := by
  rw [State.cacheMiss_lineAt, if_neg h.symm]

theorem State.cacheMiss_calls (s : State) (pa : Word32) :
    (s.cacheMiss pa).calls = s.calls ++ [.memRead pa (s.wordAnswer pa),
      .logEntry ⟨.dataFromMemory, byteValue (byteOf (s.wordAnswer pa) (offOf pa))⟩] :=
  List.append_assoc ..

/-- A fetch changes no line but the one its address selects. -/
theorem State.fetchByte_lineAt_of_ne (s : State) {l : LineIndex} (h : l ≠ lineOf pa) :
    (s.fetchByte pa).lineAt l = s.lineAt l := by
  obtain ⟨-, h'⟩ | ⟨-, w, -, h'⟩ | ⟨-, -, h'⟩ := s.fetchByte_cases pa <;> rw [h']
  · rw [State.raise_eq]
    rfl
  · rfl
  · exact s.cacheMiss_lineAt_of_ne h

/-! ### FETCHB on a ready state, outcome by outcome -/

/-- Settles O32: the range check comes first; in range, neither a hit nor a miss records a fault. -/
theorem fetchbRange : Obligations.FetchbRange := by
  intro s pa hs
  rw [exec_fetchb_ready hs]
  refine ⟨fun hout => ?_, fun hlt => ?_⟩
  · rw [State.fetchByte_eq_raise (paInRange_eq_false_of_ne hout), State.raise_running s hs.2]
  · exact ⟨_, rfl, (hs.fetchByte ((paInRange_iff pa).2 hlt)).2⟩

/-- Settles O33: the way is the one the lookup finds, and a hit only logs and responds. -/
theorem fetchbHit : Obligations.FetchbHit := by
  intro s pa w hs hpa hvalid htag hfirst
  rw [exec_fetchb_ready hs,
    State.fetchByte_eq_fetched hpa (Line.lookup_eq_some_iff_valid_tag.2 ⟨hvalid, htag, hfirst⟩)]
  rfl

/-- Settles O34: the lookup misses, and the fetcher's answer is installed in the address's line alone. -/
theorem fetchbMiss : Obligations.FetchbMiss := by
  rintro s pa _ _ hs hpa hmiss rfl rfl
  rw [exec_fetchb_ready hs, State.fetchByte_eq_cacheMiss hpa (Line.lookup_eq_none_iff_forall_tag_ne.2 hmiss)]
  refine ⟨_, rfl, ?_, ?_, ?_, fun l hl => s.cacheMiss_lineAt_of_ne hl, rfl, rfl, rfl, rfl, rfl, rfl, rfl, rfl,
    s.cacheMiss_calls pa, rfl⟩ <;> rw [State.cacheMiss_lineAt_self]
  · exact Line.install_victim ..
  · exact Line.install_way_other ..
  · exact Line.install_older ..

/-! ### The replacement FSM (R136) -/

/-- A row of the table with victim 0: way 0 is filled, way 1 stays, `older` names way 1. -/
theorem Line.install_row_of_victim_zero {b : Bool} (hv : x.victim = 0) (h1 : x.way1.valid = b) (g : CacheTag)
    (d : Word32) : x.victim = 0 ∧
      ((x.install g d).way0.valid, (x.install g d).way1.valid, (x.install g d).older) = (true, b, 1) := by
  rw [Line.install_of_victim_zero hv]
  subst h1
  exact ⟨hv, rfl⟩

/-- A row of the table with victim 1: way 1 is filled, way 0 stays, `older` names way 0. -/
theorem Line.install_row_of_victim_one {b : Bool} (hv : x.victim = 1) (h0 : x.way0.valid = b) (g : CacheTag)
    (d : Word32) : x.victim = 1 ∧
      ((x.install g d).way0.valid, (x.install g d).way1.valid, (x.install g d).older) = (b, true, 0) := by
  rw [Line.install_of_victim_one hv]
  subst h0
  exact ⟨hv, rfl⟩

/-- A command other than INIT that changes a line is a fetch that misses in it, and the change is the install. -/
theorem exec_lineAt_ne {i : Instr} {l : LineIndex} (h : exec i s = .next t) (hi : i ≠ .init)
    (hne : t.lineAt l ≠ s.lineAt l) :
    ∃ pa, i = .fetchb pa ∧ lineOf pa = l ∧ (s.lineAt l).lookup (ctagOf pa) = none ∧
      t.lineAt l = (s.lineAt l).install (ctagOf pa) (s.wordAnswer pa) := by
  obtain ⟨-, ⟨-, -, rfl⟩ | ⟨rfl, -⟩ | ⟨-, va, -, rfl⟩ | ⟨-, pa, rfl, rfl⟩⟩ := exec_cases s h
  · exact absurd rfl hne
  · exact absurd rfl hi
  · exact absurd (s.translate_lineAt va l) hne
  · have hl : l = lineOf pa := Decidable.byContradiction fun hl => hne (s.fetchByte_lineAt_of_ne hl)
    obtain heq | ⟨hmiss, heq⟩ := s.fetchByte_lineAt pa l
    · exact absurd heq hne
    · exact ⟨pa, rfl, hl.symm, hmiss, heq⟩

/-- Settles O35: each row has its victim, which with the two ways gives the line after the install; and only a fetch that
misses installs. -/
theorem replacementFsm : Obligations.ReplacementFsm := by
  refine ⟨fun x g d => ⟨fun h => ?_, fun h => ?_, fun h => ?_, fun h => ?_, fun h => ?_⟩, fun s t i l h hi hne => ?_⟩
  · obtain ⟨h0, h1⟩ := Prod.mk.inj h
    exact Line.install_row_of_victim_zero (Line.victim_of_way0_invalid h0) h1 g d
  · obtain ⟨h0, h1⟩ := Prod.mk.inj h
    exact Line.install_row_of_victim_one (Line.victim_of_way1_invalid h0 h1) h0 g d
  · obtain ⟨h0, h1⟩ := Prod.mk.inj h
    exact Line.install_row_of_victim_zero (Line.victim_of_way0_invalid h0) h1 g d
  · simp only [Prod.mk.injEq] at h
    obtain ⟨h0, h1, holder⟩ := h
    exact Line.install_row_of_victim_zero ((Line.victim_of_full h0 h1).trans holder) h1 g d
  · simp only [Prod.mk.injEq] at h
    obtain ⟨h0, h1, holder⟩ := h
    exact Line.install_row_of_victim_one ((Line.victim_of_full h0 h1).trans holder) h0 g d
  · obtain ⟨pa, rfl, hl, hmiss, heq⟩ := exec_lineAt_ne h hi hne
    exact ⟨pa, rfl, hl, Line.lookup_eq_none_iff_forall_tag_ne.1 hmiss, heq⟩

/-! ### Two fetches in a line (R137, R139) -/

/-- Every fetch in range answers a byte of a word that its line holds afterwards, where a lookup finds it: on a hit the word
was there, and on a miss it is the fetcher's answer. -/
theorem State.fetchByte_answer (s : State) (hpa : paInRange pa = true) :
    ∃ k word, (s.fetchByte pa).responses = s.responses ++ [⟨k, byteValue (byteOf word (offOf pa))⟩] ∧
      (∃ w, ((s.fetchByte pa).lineAt (lineOf pa)).lookup (ctagOf pa) = some w ∧
        (((s.fetchByte pa).lineAt (lineOf pa)).way w).data = word) ∧
      ((k = .dataFromCache ∧ ∃ w, (s.lineAt (lineOf pa)).lookup (ctagOf pa) = some w ∧
          word = ((s.lineAt (lineOf pa)).way w).data) ∨
        (k = .dataFromMemory ∧ word = s.wordAnswer pa ∧ (s.lineAt (lineOf pa)).lookup (ctagOf pa) = none)) := by
  cases hlookup : (s.lineAt (lineOf pa)).lookup (ctagOf pa) with
  | some w =>
    rw [State.fetchByte_eq_fetched hpa hlookup]
    exact ⟨_, _, rfl, ⟨w, hlookup, rfl⟩, .inl ⟨rfl, w, rfl, rfl⟩⟩
  | none =>
    rw [State.fetchByte_eq_cacheMiss hpa hlookup, State.cacheMiss_lineAt_self]
    refine ⟨_, _, rfl, ⟨_, Line.lookup_install hlookup _, ?_⟩, .inr ⟨rfl, rfl, rfl⟩⟩
    rw [Line.install_victim]

/-- Settles O38: the second address, of the same tag and line, finds the word that the first fetch left there. -/
theorem aliasedAddressesShareAWay : Obligations.AliasedAddressesShareAWay := by
  intro s p q hs hp hq htag hline
  obtain ⟨k, word, hfirst, ⟨w, hw, hword⟩, hsource⟩ := s.fetchByte_answer hp
  have hsecond : (s.fetchByte p).fetchByte q = (s.fetchByte p).fetched .dataFromCache word q := by
    rw [htag, hline] at hw
    rw [State.fetchByte_eq_fetched hq hw, ← hline, hword]
  refine ⟨_, _, k, word, exec_fetchb_ready hs p, exec_fetchb_ready (hs.fetchByte hp) q, hfirst, by rw [hsecond]; rfl, ?_⟩
  obtain ⟨hk, v, hv, hdata⟩ | ⟨hk, hanswer, hmiss⟩ := hsource
  · obtain ⟨hvalid, heq, hway⟩ := Line.lookup_eq_some_iff_valid_tag.1 hv
    exact .inl ⟨hk, v, hvalid, heq, hway, hdata⟩
  · exact .inr ⟨hk, hanswer, Line.lookup_eq_none_iff_forall_tag_ne.1 hmiss⟩

/-- Settles O39: the hit leaves the line, so the victim of the miss is what `older` named before it. -/
theorem replacementIsFifo : Obligations.ReplacementIsFifo := by
  rintro s p q hs hp hq hline h0 h1 ⟨w, htag⟩ hother
  have hkept : (s.fetchByte p).lineAt (lineOf p) = s.lineAt (lineOf p) := by
    obtain heq | ⟨hmiss, -⟩ := s.fetchByte_lineAt p (lineOf p)
    · exact heq
    · have hw : ((s.lineAt (lineOf p)).way w).valid = true := by
        obtain rfl | rfl := WayNo.zero_or_one w
        · exact h0
        · exact h1
      exact absurd htag (Line.lookup_eq_none_iff_forall_tag_ne.1 hmiss w hw)
  have hmiss : ((s.fetchByte p).lineAt (lineOf q)).lookup (ctagOf q) = none := by
    rw [← hline, hkept, Line.lookup_eq_none_iff_forall_tag_ne]
    exact fun u _ => hother u
  refine ⟨_, _, (s.fetchByte p).wordAnswer q, exec_fetchb_ready hs p, exec_fetchb_ready (hs.fetchByte hp) q, hkept, ?_⟩
  rw [State.fetchByte_eq_cacheMiss hq hmiss, hline, State.cacheMiss_lineAt_self, ← hline, hkept,
    ← Line.victim_of_full h0 h1]
  exact Line.install_victim ..

/-! ### Three tags in a line (R140) -/

/-- The event and the line of a fetch that misses in a known line. -/
theorem State.fetchByte_log_lineAt_of_miss {l : LineIndex} (hpa : paInRange pa = true) (hl : lineOf pa = l)
    (hline : s.lineAt l = x) (hmiss : x.lookup (ctagOf pa) = none) :
    ∃ v d, (s.fetchByte pa).log = s.log ++ [⟨.dataFromMemory, v⟩] ∧
      (s.fetchByte pa).lineAt l = x.install (ctagOf pa) d := by
  subst hl hline
  rw [State.fetchByte_eq_cacheMiss hpa hmiss]
  exact ⟨_, _, rfl, s.cacheMiss_lineAt_self pa⟩

/-- Settles O40: the line goes from cleared to (A, -), to (A, B), to (C, B), and no tag is there when it is fetched. -/
theorem thirdTagEvictsTheFirst : Obligations.ThirdTagEvictsTheFirst := by
  intro s a b c hf ha hb hc hab hbc htab htbc htac
  obtain ⟨t, hinit, hready, hlog⟩ := exec_init_ready hf
  have hrun : execAll [.init, .fetchb a, .fetchb b, .fetchb c] s =
      .next (((t.fetchByte a).fetchByte b).fetchByte c) := by
    have hready_a := hready.fetchByte ha
    rw [execAll_cons_of_next hinit, execAll_fetchb_cons hready, execAll_fetchb_cons hready_a,
      execAll_fetchb_cons (hready_a.fetchByte hb)]
    rfl
  obtain ⟨v₁, d₁, hlog_a, hline_a⟩ := State.fetchByte_log_lineAt_of_miss ha rfl (exec_init_lineAt hinit (lineOf a))
    (Line.lookup_eq_none.2 ⟨rfl, rfl⟩)
  rw [Line.install_of_victim_zero rfl] at hline_a
  obtain ⟨v₂, d₂, hlog_b, hline_b⟩ := State.fetchByte_log_lineAt_of_miss hb hab.symm hline_a
    (Line.lookup_eq_none.2 ⟨beq_eq_false_iff_ne.2 htab, rfl⟩)
  rw [Line.install_of_victim_one rfl] at hline_b
  obtain ⟨v₃, d₃, hlog_c, hline_c⟩ := State.fetchByte_log_lineAt_of_miss hc (hab.trans hbc).symm hline_b
    (Line.lookup_eq_none.2 ⟨beq_eq_false_iff_ne.2 htac, beq_eq_false_iff_ne.2 htbc⟩)
  rw [Line.install_of_victim_zero rfl] at hline_c
  refine ⟨_, v₁, v₂, v₃, d₃, d₂, hrun, ?_, hline_c⟩
  rw [hlog_c, hlog_b, hlog_a, hlog, List.append_assoc, List.append_assoc]
  rfl

/-! ### The two pipelines (R142) -/

/-- A translation takes the same path whatever the cache holds, and leaves what it holds. -/
theorem State.translate_withCache (s : State) (va : Word32) (c : Vector Line 32) :
    ({ s with cache := c } : State).translate va = { s.translate va with cache := c } := by
  obtain ⟨hva, h⟩ | ⟨hva, p, hp, h⟩ | ⟨hva, hmiss, p, hp, h⟩ | ⟨hva, hmiss, hno, h⟩ := s.translate_cases va <;> rw [h]
  · exact State.translate_eq_illegalVa hva
  · exact State.translate_eq_translated hva hp
  · exact State.translate_eq_ptHit hva hmiss hp
  · exact State.translate_eq_pageFault hva hmiss hno

/-- A fetch takes the same path whatever the TLB and the page table hold, and leaves what they hold. -/
theorem State.fetchByte_withTables (s : State) (pa : Word32) (a : Vector TlbEntry 16) (b : Vector PtEntry 512) :
    ({ s with tlb := a, pt := b } : State).fetchByte pa = { s.fetchByte pa with tlb := a, pt := b } := by
  obtain ⟨hpa, h⟩ | ⟨hpa, w, hw, h⟩ | ⟨hpa, hmiss, h⟩ := s.fetchByte_cases pa <;> rw [h]
  · rw [State.fetchByte_eq_raise hpa, State.raise_eq, State.raise_eq]
  · exact State.fetchByte_eq_fetched hpa hw
  · exact State.fetchByte_eq_cacheMiss hpa hmiss

/-- Settles O43: before INIT a query records only its fault, and after it the two bodies keep to their own tables. -/
theorem pipelinesAreIndependent : Obligations.PipelinesAreIndependent := by
  refine ⟨fun s t va c h => ?_, fun s t pa a b h => ?_⟩
  · obtain ⟨hf, ⟨hi, rfl⟩ | ⟨hi, rfl⟩⟩ := (exec_xlate_eq_next s).1 h
    · exact exec_query_before_init hf hi rfl
    · rw [← State.translate_withCache]
      exact exec_xlate_ready (s := { s with cache := c }) ⟨hi, hf⟩ va
  · obtain ⟨hf, ⟨hi, rfl⟩ | ⟨hi, rfl⟩⟩ := (exec_fetchb_eq_next s).1 h
    · exact exec_query_before_init hf hi rfl
    · rw [← State.fetchByte_withTables]
      exact exec_fetchb_ready (s := { s with tlb := a, pt := b }) ⟨hi, hf⟩ pa

end Sys2Proof.Machine
end

section
/-! INIT as a fresh start (spec/43_control.md R161, R163): a later INIT, and the first translation of a page and the first
fetch in a line after INIT, whatever commands run in between (spec/41_translate.md R113). -/

namespace Sys2Proof.Machine

variable {s t u : State} {v : Vpn} {l : LineIndex} {va pa : Word32} {is : List Instr}

/-! ### A later INIT (R161) -/

/-- Settles O20: INIT needs only that no fault is recorded, and what it writes does not depend on the state before it. -/
theorem laterInitIsTheFirst : Obligations.LaterInitIsTheFirst := by
  intro s t u is hst _
  obtain ⟨hs, rfl⟩ := (exec_init_eq_next s).1 hst
  refine ⟨fun hu => ?_, fun hu x hx => ?_⟩
  · exact ⟨_, (exec_init_eq_next u).2 ⟨hu, rfl⟩, rfl, rfl, rfl, rfl, hu.trans hs.symm, rfl⟩
  · exact hu ((exec_init_eq_next u).1 hx).1

/-! ### What holds from INIT on -/

/-- A property that INIT establishes, and that the translations and fetches of a list keep, holds after INIT and the list;
and queries are still taken there. -/
theorem execAll_keeps_from_init {P : State → Prop} (hinit : ∀ a b, exec .init a = .next b → P b)
    (hxlate : ∀ va, Instr.xlate va ∈ is → ∀ a, P a → P (a.translate va))
    (hfetchb : ∀ pa, Instr.fetchb pa ∈ is → ∀ a, P a → P (a.fetchByte pa))
    (hst : exec .init s = .next t) (htu : execAll is t = .next u) : u.init = true ∧ P u := by
  refine execAll_keeps (P := fun a => a.init = true ∧ P a) (fun i hi a b hab ha => ?_) htu
    ⟨exec_init_init hst, hinit s t hst⟩
  obtain ⟨hainit, hP⟩ := ha
  obtain ⟨-, ⟨hno, -, -⟩ | ⟨rfl, -⟩ | ⟨-, va, rfl, rfl⟩ | ⟨-, pa, rfl, rfl⟩⟩ := exec_cases a hab
  · rw [hainit] at hno
    cases hno
  · exact ⟨exec_init_init hab, hinit a b hab⟩
  · exact ⟨(a.translate_init va).trans hainit, hxlate va hi a hP⟩
  · exact ⟨(a.fetchByte_init pa).trans hainit, hfetchb pa hi a hP⟩

/-! ### A page not translated since INIT (R113) -/

/-- Page `v` is in neither table: the page table has no entry for it, and the TLB holds only what the page table does. -/
def State.Unloaded (v : Vpn) (s : State) : Prop := s.TlbInPt ∧ (s.ptAt v).valid = false

theorem exec_init_unloaded (h : exec .init s = .next t) (v : Vpn) : t.Unloaded v :=
  ⟨exec_init_tlbInPt h, by rw [exec_init_ptAt h]; rfl⟩

/-- Only a legal translation of a page changes the page's entry. -/
theorem State.translate_ptAt_of_ne (s : State) (h : vaLegal va = true → vpnOf va ≠ v) :
    (s.translate va).ptAt v = s.ptAt v := by
  obtain ⟨-, ht⟩ | ⟨-, p, -, ht⟩ | ⟨-, -, p, -, ht⟩ | ⟨hva, -, -, ht⟩ := s.translate_cases va <;> rw [ht]
  · rfl
  · rfl
  · rfl
  · rw [State.pageFault_ptAt, if_neg (h hva).symm]

theorem State.Unloaded.translate (hs : s.Unloaded v) (h : vaLegal va = true → vpnOf va ≠ v) :
    (s.translate va).Unloaded v :=
  ⟨hs.1.translate va, by rw [s.translate_ptAt_of_ne h]; exact hs.2⟩

theorem State.Unloaded.fetchByte (hs : s.Unloaded v) (pa : Word32) : (s.fetchByte pa).Unloaded v :=
  ⟨hs.1.fetchByte pa, by rw [State.fetchByte_ptAt]; exact hs.2⟩

/-- A TLB hit for an unloaded page would be a mapping that the page table does not hold. -/
theorem State.Unloaded.tlbLookup_eq_none (hs : s.Unloaded v) : s.tlbLookup v = none := by
  obtain ⟨htlb, hinvalid⟩ := hs
  rw [State.tlbLookup_eq_none]
  intro hvalid htag
  have hpt := htlb (tlbIndexOf v) hvalid
  rw [htag, vpnOfTlb_tag_index] at hpt
  rw [hpt] at hinvalid
  cases hinvalid

theorem State.Unloaded.translate_eq_pageFault (hs : s.Unloaded (vpnOf va)) (hva : vaLegal va = true) :
    s.translate va = s.pageFault va :=
  State.translate_eq_pageFault hva hs.tlbLookup_eq_none (s.ptLookup_eq_none.2 hs.2)

/-! ### The first touch after INIT (R163) -/

theorem unloaded_of_no_translation (hst : exec .init s = .next t) (htu : execAll is t = .next u)
    (hno : ∀ vb, Instr.xlate vb ∈ is → vaLegal vb = true → vpnOf vb ≠ v) : u.init = true ∧ u.Unloaded v :=
  execAll_keeps_from_init (P := State.Unloaded v) (fun _ _ h => exec_init_unloaded h v)
    (fun vb hvb _ ha => ha.translate (hno vb hvb)) (fun pb _ _ ha => ha.fetchByte pb) hst htu

theorem lineAt_cleared_of_no_fetch (hst : exec .init s = .next t) (htu : execAll is t = .next u)
    (hno : ∀ pb, Instr.fetchb pb ∈ is → lineOf pb ≠ l) : u.init = true ∧ u.lineAt l = .cleared :=
  execAll_keeps_from_init (P := fun a => a.lineAt l = .cleared) (fun _ _ h => exec_init_lineAt h l)
    (fun vb _ a ha => (a.translate_lineAt vb l).trans ha)
    (fun pb hpb a ha => (a.fetchByte_lineAt_of_ne (hno pb hpb).symm).trans ha) hst htu

theorem Line.cleared_way_valid (w : WayNo) : (Line.cleared.way w).valid = false := by
  obtain rfl | rfl := WayNo.zero_or_one w <;> rfl

/-- Settles O21: INIT clears every slot and way; a page with no translation since then is unloaded, and a line with no fetch
since then is cleared. -/
theorem firstTouchAfterInit : Obligations.FirstTouchAfterInit := by
  intro s t u is hst htu hu
  refine ⟨⟨fun i => ?_, fun v => ?_, fun l w => ?_⟩, fun va hva hno => ?_, fun pa hpa hno => ?_⟩
  · rw [exec_init_tlbAt hst]
    rfl
  · rw [exec_init_ptAt hst]
    rfl
  · rw [exec_init_lineAt hst]
    exact Line.cleared_way_valid w
  · obtain ⟨huinit, hunloaded⟩ := unloaded_of_no_translation hst htu hno
    rw [exec_xlate_ready ⟨huinit, hu⟩, hunloaded.translate_eq_pageFault hva]
    exact ⟨_, _, rfl, rfl⟩
  · obtain ⟨huinit, hline⟩ := lineAt_cleared_of_no_fetch hst htu hno
    obtain ⟨byte, _, hlog, -⟩ := State.fetchByte_log_lineAt_of_miss hpa rfl hline (Line.lookup_eq_none.2 ⟨rfl, rfl⟩)
    exact ⟨_, byte, exec_fetchb_ready ⟨huinit, hu⟩ pa, hlog⟩

end Sys2Proof.Machine
end

section
/-! Model faults (spec/60_exceptions.md): which command raises which fault (R173, in the order of R175), what raising one leaves
unchanged, and that nothing is taken while a fault is recorded (R174). -/

namespace Sys2Proof

/-! ### Words and commands (R84, R85) -/

theorem encode_eq_of_decode {w : CmdWord} {i : Instr} (h : decode w = .instr i) : encode i = w :=
  (CmdWord.eq_fields_iff.2 (decode_eq_instr_iff.1 h)).symm

/-- Each of the decoder's three reasons is a check of R84 that fails. -/
theorem CmdWord.wellFormed_eq_false_of_decode_illegal {w : CmdWord} {why : IllegalWord} (h : decode w = .illegal why) :
    w.wellFormed = false := by
  rw [← Bool.not_eq_true, wellFormed_iff]
  rintro ⟨hop, hrsv, hoperand⟩
  unfold decode at h
  split_ifs at h with hunknown hrsv' hzero hoperand'
  · exact BitVec.not_lt.2 hunknown hop
  · exact hrsv' hrsv
  · exact hoperand' (hoperand hzero)

namespace Machine

variable {s t : State} {i : Instr} {w : CmdWord} {ws : List CmdWord}

/-! ### Which fault a command raises (R173, R175) -/

theorem paInRange_eq_false_iff {pa : Word32} : paInRange pa = false ↔ pa.extractLsb' 22 10 ≠ 0 :=
  beq_eq_false_iff_ne

/-- A command raises one of two faults and does nothing else, or passes the checks of R175 and records none. -/
theorem exec_fault_cases (h : exec i s = .next t) :
    (s.init = false ∧ i.isQuery = true ∧ t = { s with fault := some (.notInitialized (encode i)) }) ∨
    (s.init = true ∧ ∃ pa, i = .fetchb pa ∧ paInRange pa = false ∧
      t = { s with fault := some (.physicalOutOfRange pa) }) ∨
    ((i.isQuery = true → s.init = true) ∧ (∀ pa, i = .fetchb pa → paInRange pa = true) ∧ t.fault = none) := by
  obtain ⟨hf, ⟨hinit, hq, ht⟩ | ⟨rfl, rfl⟩ | ⟨hinit, va, rfl, rfl⟩ | ⟨hinit, pa, rfl, rfl⟩⟩ := exec_cases s h
  · exact .inl ⟨hinit, hq, ht⟩
  · exact .inr (.inr ⟨nofun, nofun, hf⟩)
  · exact .inr (.inr ⟨fun _ => hinit, nofun, (s.translate_fault va).trans hf⟩)
  · cases hpa : paInRange pa with
    | false => exact .inr (.inl ⟨hinit, pa, rfl, hpa, by rw [State.fetchByte_eq_raise hpa, s.raise_running hf]⟩)
    | true =>
      refine .inr (.inr ⟨fun _ => hinit, ?_, (State.fetchByte_fault hpa).trans hf⟩)
      rintro _ ⟨⟩
      exact hpa

/-- A step that takes the word `w`: an illegal word's fault, or the command that `w` spells. -/
theorem step_cases_of_commands_eq_cons (hc : s.commands = w :: ws) (h : step s = .next t) :
    ((∃ why, decode w = .illegal why) ∧ t = { s with commands := ws, fault := some (.illegalCommand w) }) ∨
    ∃ i, decode w = .instr i ∧ exec i { s with commands := ws } = .next t := by
  obtain ⟨-, ⟨hidle, -⟩ | ⟨_, _, hc', hw⟩⟩ := step_cases s h
  · rw [hc] at hidle
    cases hidle
  · obtain ⟨rfl, rfl⟩ := List.cons.inj (hc.symm.trans hc')
    obtain hlegal | ⟨why, hd, ht⟩ := hw
    · exact .inr hlegal
    · exact .inl ⟨⟨why, hd⟩, ht⟩

/-- Settles O15: an illegal word raises its own fault alone; a word that spells a command passes the checks of words, and
raises the fault of the first of the command's two checks that fails, if one does. -/
theorem modelFaultTable : Obligations.ModelFaultTable := by
  intro s t w ws _ hc h
  simp only [← paInRange_eq_false_iff]
  obtain ⟨hill, rfl⟩ | ⟨i, hd, he⟩ := step_cases_of_commands_eq_cons hc h
  · obtain ⟨why, hd⟩ := hill
    have hwf := CmdWord.wellFormed_eq_false_of_decode_illegal hd
    exact ⟨fun c => by simp [hwf, eq_comm (a := c) (b := w)], by simp [hd], by simp [hd]⟩
  · have hwf := CmdWord.wellFormed_of_decode hd
    obtain ⟨hinit, hq, rfl⟩ | ⟨hinit, pa, rfl, hpa, rfl⟩ | ⟨hq, hpa, ht⟩ := exec_fault_cases he
    · change s.init = false at hinit
      rw [encode_eq_of_decode hd]
      exact ⟨by simp [hwf], fun c => by simp [hd, hinit, hq, eq_comm (a := c) (b := w)], by simp [hinit]⟩
    · change s.init = true at hinit
      refine ⟨by simp [hwf], by simp [hinit], fun p => ?_⟩
      simp only [hd, hinit, Decoded.instr.injEq, Instr.fetchb.injEq, Option.some.injEq, Fault.physicalOutOfRange.injEq,
        true_and]
      exact (and_iff_left_of_imp fun hp => hp ▸ hpa).symm
    · refine ⟨by simp [ht, hwf], fun c => ?_, fun p => ?_⟩
      · simp only [ht, hd, reduceCtorEq, false_iff]
        rintro ⟨-, hinit, _, ⟨⟩, hq'⟩
        cases hinit.symm.trans (hq hq')
      · simp only [ht, hd, reduceCtorEq, false_iff]
        rintro ⟨-, ⟨⟩, hp⟩
        cases hp.symm.trans (hpa p rfl)

/-! ### Raising a fault (R174) -/

theorem exec_eq_of_fault_ne_none (h : exec i s = .next t) (ht : t.fault ≠ none) : t = { s with fault := t.fault } := by
  obtain ⟨-, -, rfl⟩ | ⟨-, pa, -, -, rfl⟩ | ⟨-, -, hnone⟩ := exec_fault_cases h
  · rfl
  · rfl
  · exact absurd hnone ht

/-- A step that leaves a fault recorded took a word, and changed the command port and the fault alone. -/
theorem step_eq_of_fault_ne_none (h : step s = .next t) (ht : t.fault ≠ none) :
    t = { s with commands := s.commands.tail, fault := t.fault } := by
  obtain ⟨hf, ⟨-, rfl⟩ | ⟨w, ws, hc, ⟨i, -, he⟩ | ⟨why, -, rfl⟩⟩⟩ := step_cases s h
  · exact absurd hf ht
  · rw [hc]
    exact exec_eq_of_fault_ne_none he ht
  · rw [hc]
    rfl

/-- Settles O16: what a raised fault leaves unchanged, and that the first check of a step and of every command is for a
recorded fault. -/
theorem raisingAFaultDoesNothingElse : Obligations.RaisingAFaultDoesNothingElse :=
  ⟨fun s _ h ht => ⟨(step_cases s h).1, step_eq_of_fault_ne_none h ht⟩,
    fun s hf _ => ⟨fun h => hf (step_cases s h).1, fun _ h => hf (exec_cases s h).1⟩⟩

end Machine

end Sys2Proof
end

section
/-! Encoding and decoding as inverses (spec/30_encoding.md R81-R85), the decoder vectors of spec/95_test_vectors.md, the codes
of the kinds (R87) and the words the assembler emits (R91). -/

namespace Sys2Proof

/-! ### Commands and words (R81-R85) -/

theorem decode_encode (i : Instr) : decode (encode i) = .instr i :=
  decode_eq_instr_iff.2 ⟨encode_op i, encode_rsv i, encode_operand i⟩

/-- Settles O1: the fields of an encoded command are the ones the decoder reads that command from. -/
theorem decodeOfEncodeIsTheCommand : Obligations.DecodeOfEncodeIsTheCommand :=
  decode_encode

/-- Settles O2: a word that decodes to a command has that command's three fields, and a word is its fields. -/
theorem encodeOfDecodeIsTheWord : Obligations.EncodeOfDecodeIsTheWord :=
  fun _ _ => encode_eq_of_decode

/-- Settles O5: a command's word passes the three checks, and an illegal word fails one of them. -/
theorem wellFormedWordsDecode : Obligations.WellFormedWordsDecode := by
  refine fun w => ⟨fun hw => ?_, fun ⟨_, hd⟩ => CmdWord.wellFormed_of_decode hd⟩
  cases hd : decode w with
  | instr i => exact ⟨i, rfl⟩
  | illegal why =>
    rw [CmdWord.wellFormed_eq_false_of_decode_illegal hd] at hw
    cases hw

/-- Settles O6: the legal vectors are encodings, and each illegal one is evaluated. -/
theorem specWordsDecode : Obligations.SpecWordsDecode :=
  ⟨decode_encode .init, decode_encode (.xlate 0x00012345), decode_encode (.fetchb 0x00000A05), by decide, by decide,
    by decide⟩

theorem encode_toNat (i : Instr) : (encode i).toNat = i.opcode.toNat * 2 ^ 56 + i.operandField.toNat := by
  have hhigh : (i.opcode ++ (0 : BitVec 24)).toNat = i.opcode.toNat * 2 ^ 24 := by
    rw [BitVec.toNat_append, BitVec.ofNat_eq_ofNat, BitVec.toNat_ofNat, Nat.zero_mod, Nat.or_zero, Nat.shiftLeft_eq]
  rw [encode, BitVec.toNat_append, ← Nat.shiftLeft_add_eq_or_of_lt i.operandField.isLt, Nat.shiftLeft_eq, hhigh]
  omega

namespace Machine

/-! ### The kinds (R87) -/

theorem Kind.ofCode_code (k : Kind) : Kind.ofCode k.code = some k := by
  cases k <;> rfl

/-- Settles O54: the seven codes are read off; each is decoded back, and 6 meets no code. -/
theorem kindCodes : Obligations.KindCodes :=
  ⟨rfl, rfl, rfl, rfl, rfl, rfl, rfl, Kind.ofCode_code, rfl⟩

/-! ### The assembler (R91) -/

theorem immInRange_iff (imm : Int) : immInRange imm = true ↔ -2 ^ 31 ≤ imm ∧ imm < 2 ^ 32 := by
  rw [immInRange, Bool.and_eq_true, decide_eq_true_iff, decide_eq_true_iff]
  omega

theorem immPattern_toNat (imm : Int) : (immPattern imm).toNat = (imm % 2 ^ 32).toNat :=
  BitVec.toNat_ofInt ..

/-- The word of a command whose operand is the pattern of a number. -/
theorem encode_eq_ofNat_of_immPattern {i : Instr} {imm : Int} (h : i.operandField = immPattern imm) :
    encode i = BitVec.ofNat 64 (i.opcode.toNat * 2 ^ 56 + (imm % 2 ^ 32).toNat) := by
  rw [← immPattern_toNat, ← h, ← encode_toNat, BitVec.ofNat_toNat, BitVec.setWidth_eq]

theorem SourceCommand.assemble_xlate {imm : Int} (h : immInRange imm = true) :
    (SourceCommand.xlate imm).assemble = some (encode (.xlate (immPattern imm))) := by
  simp [SourceCommand.assemble, SourceCommand.instr, SourceCommand.wellFormed, h]

theorem SourceCommand.assemble_fetchb {imm : Int} (h : immInRange imm = true) :
    (SourceCommand.fetchb imm).assemble = some (encode (.fetchb (immPattern imm))) := by
  simp [SourceCommand.assemble, SourceCommand.instr, SourceCommand.wellFormed, h]

theorem SourceCommand.assemble_eq_none {c : SourceCommand} (h : c.wellFormed = false) : c.assemble = none := by
  simp [SourceCommand.assemble, SourceCommand.instr, h]

/-- Settles O57: a number in range becomes its pattern, the operand of the command's word; any other number makes the source
command ill-formed. -/
theorem assemblerEmitsTheWord : Obligations.AssemblerEmitsTheWord := by
  refine ⟨rfl, fun imm hlow hhigh => ?_, fun imm hout => ?_⟩
  · have hin := (immInRange_iff imm).2 ⟨hlow, hhigh⟩
    rw [SourceCommand.assemble_xlate hin, SourceCommand.assemble_fetchb hin,
      encode_eq_ofNat_of_immPattern (i := .xlate (immPattern imm)) rfl,
      encode_eq_ofNat_of_immPattern (i := .fetchb (immPattern imm)) rfl]
    exact ⟨rfl, rfl⟩
  · have hin : immInRange imm = false := by
      rw [← Bool.not_eq_true, immInRange_iff]
      omega
    exact ⟨SourceCommand.assemble_eq_none hin, SourceCommand.assemble_eq_none hin⟩

end Machine

end Sys2Proof
end

section
/-! One step and lists of commands (spec/20_memory.md R65): a step that runs, one that is idle and one that is stuck
(spec/10_state.md R34, R41; spec/60_exceptions.md R174, R185), and the steps that do what a list of commands does. -/

namespace Sys2Proof.Machine

variable {s t : State} {i : Instr} {is : List Instr} {w : CmdWord} {ws : List CmdWord}

/-! ### A step that runs, is idle or is stuck -/

theorem step_of_decode_instr (hf : s.fault = none) (hc : s.commands = w :: ws) (hd : decode w = .instr i) :
    step s = exec i { s with commands := ws } := by
  simp only [step, hf, State.nextCommand, hc, hd]

theorem step_of_commands_eq_nil (hf : s.fault = none) (hc : s.commands = []) : step s = .next s := by
  simp only [step, hf, State.nextCommand, hc]

/-- Settles O11: no fault stops the step, and it takes the word from the port. -/
theorem stepRunsTheDecodedCommand : Obligations.StepRunsTheDecodedCommand :=
  fun _ _ _ _ => step_of_decode_instr

/-- Settles O12: no fault stops the step, and there is no word to take. -/
theorem idleStepHoldsTheState : Obligations.IdleStepHoldsTheState :=
  fun _ => step_of_commands_eq_nil

/-- Settles O13: a recorded fault is what a step and a command stop for. -/
theorem stuckInstanceStops : Obligations.StuckInstanceStops :=
  fun _ _ hf => ⟨step_eq_fault.2 hf, fun _ => exec_eq_fault.2 hf⟩

/-- Settles O17: the three fields of the start state. -/
theorem instanceStart : Obligations.InstanceStart :=
  ⟨rfl, rfl, rfl⟩

/-! ### Commands do not look at the command port -/

theorem State.translate_withCommands (s : State) (va : Word32) (ws : List CmdWord) :
    ({ s with commands := ws } : State).translate va = { s.translate va with commands := ws } := by
  obtain ⟨hva, h⟩ | ⟨hva, p, hp, h⟩ | ⟨hva, hmiss, p, hp, h⟩ | ⟨hva, hmiss, hno, h⟩ := s.translate_cases va <;> rw [h]
  · exact State.translate_eq_illegalVa hva
  · exact State.translate_eq_translated hva hp
  · exact State.translate_eq_ptHit hva hmiss hp
  · exact State.translate_eq_pageFault hva hmiss hno

theorem State.fetchByte_withCommands (s : State) (pa : Word32) (ws : List CmdWord) :
    ({ s with commands := ws } : State).fetchByte pa = { s.fetchByte pa with commands := ws } := by
  obtain ⟨hpa, h⟩ | ⟨hpa, w, hw, h⟩ | ⟨hpa, hmiss, h⟩ := s.fetchByte_cases pa <;> rw [h]
  · rw [State.fetchByte_eq_raise hpa, State.raise_eq, State.raise_eq]
  · exact State.fetchByte_eq_fetched hpa hw
  · exact State.fetchByte_eq_cacheMiss hpa hmiss

/-- With other words at the command port a command does the same and leaves those words. -/
theorem exec_withCommands (h : exec i s = .next t) (ws : List CmdWord) :
    exec i { s with commands := ws } = .next { t with commands := ws } := by
  obtain ⟨hf, ⟨hinit, hq, rfl⟩ | ⟨rfl, rfl⟩ | ⟨hinit, va, rfl, rfl⟩ | ⟨hinit, pa, rfl, rfl⟩⟩ := exec_cases s h
  · exact exec_query_before_init hf hinit hq
  · exact (exec_init_eq_next _).2 ⟨hf, rfl⟩
  · rw [← State.translate_withCommands]
    exact exec_xlate_ready (s := { s with commands := ws }) ⟨hinit, hf⟩ va
  · rw [← State.fetchByte_withCommands]
    exact exec_fetchb_ready (s := { s with commands := ws }) ⟨hinit, hf⟩ pa

theorem exec_commands (h : exec i s = .next t) : t.commands = s.commands := by
  have hsame := (exec_withCommands h s.commands).symm.trans h
  exact (congrArg State.commands (Host.Outcome.next.inj hsame)).symm

theorem execAll_commands (h : execAll is s = .next t) : t.commands = s.commands :=
  execAll_keeps (P := fun a => a.commands = s.commands) (fun _ _ _ _ hab ha => (exec_commands hab).trans ha) h rfl

/-! ### The steps of a list of commands (R65) -/

theorem execAll_cons_eq_next (h : execAll (i :: is) s = .next t) : ∃ u, exec i s = .next u ∧ execAll is u = .next t := by
  cases he : exec i s with
  | next u => exact ⟨u, rfl, by rwa [execAll_cons_of_next he] at h⟩
  | fault f => simp [execAll, he] at h
  | refused r => simp [execAll, he] at h

/-- A step takes the oldest word offered and runs the command it encodes. -/
theorem step_encode_cons (h : exec i s = .next t) (ws : List CmdWord) :
    step { s with commands := encode i :: ws } = .next { t with commands := ws } := by
  rw [step_of_decode_instr (s := { s with commands := encode i :: ws }) (exec_cases s h).1 rfl (decode_encode i)]
  exact exec_withCommands h ws

theorem run_succ_of_step {M : Host.Core} {a b : M.State} (h : M.step a = .next b) (k : Nat) :
    M.run (k + 1) a = M.run k b := by
  simp only [Host.Core.run, h]

theorem run_encoded (ws : List CmdWord) (h : execAll is s = .next t) :
    core.run is.length { s with commands := is.map encode ++ ws } = .next { t with commands := ws } := by
  induction is generalizing s with
  | nil =>
    obtain rfl := Host.Outcome.next.inj h
    rfl
  | cons i is ih =>
    obtain ⟨u, hi, his⟩ := execAll_cons_eq_next h
    exact (run_succ_of_step (M := core) (step_encode_cons hi (is.map encode ++ ws)) is.length).trans (ih his)

/-- Settles O55: each step runs the next command on the state the one before left, but for the words that wait. -/
theorem stepsRunTheOfferedCommands : Obligations.StepsRunTheOfferedCommands := by
  intro is s t ws h
  obtain rfl : t.commands = ws := execAll_commands h
  exact run_encoded (s := { s with commands := t.commands }) _ h

end Sys2Proof.Machine
end

section
/-! What XLATE and FETCHB leave unchanged on every path, the one response of a command (spec/30_encoding.md R86), and the
host's two-command byte load (R92; spec/70_reset_and_hazards.md R197). -/

namespace Sys2Proof.Machine

variable {s t : State} {i : Instr} {va pa : Word32}

/-! ### The frame of XLATE -/

theorem State.translate_tlbAt_of_ne (s : State) {j : TlbIndex} (h : j ≠ tlbIndexOf (vpnOf va)) :
    (s.translate va).tlbAt j = s.tlbAt j := by
  obtain ⟨-, ht⟩ | ⟨-, p, -, ht⟩ | ⟨-, -, p, -, ht⟩ | ⟨-, -, -, ht⟩ := s.translate_cases va <;> rw [ht]
  · rfl
  · rfl
  · rw [State.ptHit_tlbAt, if_neg h]
  · rw [State.pageFault_tlbAt, if_neg h]

/-- Settles O27: before INIT only the fault changes, and after it each field is kept by the body of XLATE, the tables too where
the range check fails. -/
theorem xlateFrame : Obligations.XlateFrame := by
  intro s t va h
  obtain ⟨-, ⟨hi, rfl⟩ | ⟨-, rfl⟩⟩ := (exec_xlate_eq_next s).1 h
  · refine ⟨rfl, rfl, rfl, rfl, fun _ _ => rfl, fun _ _ => rfl, fun _ => ⟨rfl, rfl, rfl⟩, fun hinit => ?_⟩
    cases hi.symm.trans hinit
  · refine ⟨s.translate_cache va, s.translate_init va, s.translate_commands va, s.translate_wordAnswers va,
      fun _ => s.translate_tlbAt_of_ne, fun _ hv => s.translate_ptAt_of_ne fun _ => hv.symm, fun hva => ?_,
      fun _ => s.translate_fault va⟩
    rw [State.translate_eq_illegalVa hva]
    exact ⟨rfl, rfl, rfl⟩

/-! ### The frame of FETCHB -/

/-- A fetch whose tag is in the line, in range or not, leaves the cache and the fetcher's port. -/
theorem State.fetchByte_cache_wordAnswers_of_hit {w : WayNo} (hvalid : ((s.lineAt (lineOf pa)).way w).valid = true)
    (htag : ((s.lineAt (lineOf pa)).way w).tag = ctagOf pa) :
    (s.fetchByte pa).cache = s.cache ∧ (s.fetchByte pa).wordAnswers = s.wordAnswers := by
  obtain ⟨-, h⟩ | ⟨-, _, -, h⟩ | ⟨-, hmiss, -⟩ := s.fetchByte_cases pa
  · rw [h, State.raise_eq]
    exact ⟨rfl, rfl⟩
  · rw [h]
    exact ⟨rfl, rfl⟩
  · exact absurd htag (Line.lookup_eq_none_iff_forall_tag_ne.1 hmiss w hvalid)

/-- Settles O37: before INIT only the fault changes, and after it each field is kept by the body of FETCHB, a fault recorded
only out of range and the cache written only on a miss. -/
theorem fetchbFrame : Obligations.FetchbFrame := by
  intro s t pa h
  obtain ⟨-, ⟨hi, rfl⟩ | ⟨-, rfl⟩⟩ := (exec_fetchb_eq_next s).1 h
  · refine ⟨rfl, rfl, rfl, rfl, rfl, fun _ _ => rfl, fun hinit => ?_, fun _ => ⟨rfl, rfl⟩⟩
    cases hi.symm.trans hinit
  · exact ⟨s.fetchByte_tlb pa, s.fetchByte_pt pa, s.fetchByte_init pa, s.fetchByte_commands pa,
      s.fetchByte_frameAnswers pa, fun _ => s.fetchByte_lineAt_of_ne, fun _ => State.fetchByte_fault,
      fun ⟨_, hvalid, htag⟩ => State.fetchByte_cache_wordAnswers_of_hit hvalid htag⟩

/-! ### The outcome of a fetch in range (R130, R133) -/

theorem byteValue_toNat_lt (b : Byte) : (byteValue b).toNat < 256 := by
  rw [byteValue, BitVec.toNat_setWidth_of_le (by decide)]
  exact b.isLt

/-- Settles O36: the lookup of the line finds a way or none, and either way the byte of one word is logged and answered. -/
theorem fetchbClassification : Obligations.FetchbClassification := by
  intro s pa hs hpa
  rw [exec_fetchb_ready hs]
  cases hlookup : (s.lineAt (lineOf pa)).lookup (ctagOf pa) with
  | some w =>
    obtain ⟨hvalid, htag, -⟩ := Line.lookup_eq_some_iff_valid_tag.1 hlookup
    rw [State.fetchByte_eq_fetched hpa hlookup]
    exact ⟨_, .dataFromCache, _, rfl, rfl, rfl, byteValue_toNat_lt _, .inl rfl, iff_of_true rfl ⟨w, hvalid, htag⟩⟩
  | none =>
    have hno := Line.lookup_eq_none_iff_forall_tag_ne.1 hlookup
    rw [State.fetchByte_eq_cacheMiss hpa hlookup]
    exact ⟨_, .dataFromMemory, _, rfl, rfl, rfl, byteValue_toNat_lt _, .inr rfl,
      iff_of_false (by decide) fun ⟨w, hvalid, htag⟩ => hno w hvalid htag⟩

/-! ### One response for each command (R86) -/

/-- The end of a query: one event and one response of its kind, with the event's value but for an address out of range. -/
def AnswersItsEvent (s t : State) : Prop :=
  ∃ e r, t.log = s.log ++ [e] ∧ t.responses = s.responses ++ [r] ∧ r.kind = e.kind ∧
    (e.kind = .illegalVirtual → r.data = sentinel) ∧ (e.kind ≠ .illegalVirtual → r.data = e.value)

theorem AnswersItsEvent.of_equal {k : Kind} {v : Word32} (hk : k ≠ .illegalVirtual) (hlog : t.log = s.log ++ [⟨k, v⟩])
    (hresp : t.responses = s.responses ++ [⟨k, v⟩]) : AnswersItsEvent s t :=
  ⟨⟨k, v⟩, ⟨k, v⟩, hlog, hresp, rfl, fun h => absurd h hk, fun _ => rfl⟩

theorem State.translate_answersItsEvent (s : State) (va : Word32) : AnswersItsEvent s (s.translate va) := by
  obtain ⟨-, h⟩ | ⟨-, p, -, h⟩ | ⟨-, -, p, -, h⟩ | ⟨-, -, -, h⟩ := s.translate_cases va <;> rw [h]
  · exact ⟨_, _, rfl, rfl, rfl, fun _ => rfl, fun hk => absurd rfl hk⟩
  · exact .of_equal (k := .addressFromTlb) (by decide) rfl rfl
  · exact .of_equal (k := .addressFromPageTable) (by decide) rfl rfl
  · exact .of_equal (k := .addressFromPageFaultHandler) (by decide) rfl rfl

theorem State.fetchByte_answersItsEvent (hf : (s.fetchByte pa).fault = none) : AnswersItsEvent s (s.fetchByte pa) := by
  obtain ⟨-, h⟩ | ⟨-, w, -, h⟩ | ⟨-, -, h⟩ := s.fetchByte_cases pa <;> rw [h] at hf ⊢
  · rw [State.raise_eq] at hf
    cases hf
  · exact .of_equal (k := .dataFromCache) (by decide) rfl rfl
  · exact .of_equal (k := .dataFromMemory) (by decide) rfl rfl

theorem exec_query_answersItsEvent (h : exec i s = .next t) (hf : t.fault = none) (hq : i.isQuery = true) :
    AnswersItsEvent s t := by
  cases i with
  | init => cases hq
  | xlate va =>
    obtain rfl := exec_xlate_eq_translate h hf
    exact s.translate_answersItsEvent va
  | fetchb pa =>
    obtain rfl := exec_fetchb_eq_fetchByte h hf
    exact State.fetchByte_answersItsEvent hf

/-- Settles O53: a raised fault leaves the responses; INIT's next state has its one response, and so has a query's, with its
event. -/
theorem oneResponseForEachCommand : Obligations.OneResponseForEachCommand := by
  refine fun s t i h => ⟨fun ht => ?_, fun hf => ?_⟩
  · rw [exec_eq_of_fault_ne_none h ht]
  · cases hq : i.isQuery with
    | true =>
      obtain ⟨e, r, hlog, hresp, hkind, hout, hin⟩ := exec_query_answersItsEvent h hf hq
      refine ⟨r, hresp, ?_, fun _ => ⟨e, hlog, hkind, hout, hin⟩⟩
      rintro rfl
      cases hq
    | false =>
      cases i with
      | init =>
        obtain ⟨-, rfl⟩ := (exec_init_eq_next s).1 h
        exact ⟨⟨.initDone, 0⟩, rfl, fun _ => ⟨rfl, rfl⟩, nofun⟩
      | xlate va => cases hq
      | fetchb pa => cases hq

/-! ### The byte load (R92, R197) -/

theorem paInRange_paOf (p : Ppn) (o : Vpo) : paInRange (paOf p o) = true := by
  have hp := p.isLt
  have ho := o.isLt
  rw [paInRange_iff, paOf_toNat]
  omega

/-- A legal translation answers an address in range, with a kind that lets the host go on. -/
theorem State.translate_responses_of_legal (s : State) (hva : vaLegal va = true) :
    ∃ k d, (s.translate va).responses = s.responses ++ [⟨k, d⟩] ∧ k ≠ .illegalVirtual ∧ paInRange d = true := by
  obtain ⟨hno, -⟩ | ⟨-, p, -, h⟩ | ⟨-, -, p, -, h⟩ | ⟨-, -, -, h⟩ := s.translate_cases va
  · cases hva.symm.trans hno
  · exact ⟨.addressFromTlb, _, by rw [h]; rfl, by decide, paInRange_paOf p _⟩
  · exact ⟨.addressFromPageTable, _, by rw [h]; rfl, by decide, paInRange_paOf p _⟩
  · exact ⟨.addressFromPageFaultHandler, _, by rw [h]; rfl, by decide, paInRange_paOf _ _⟩

/-- What the host does after a translation that records no fault. -/
theorem loadByte_eq_of_response {k : Kind} {d : Word32} (h : exec (.xlate va) s = .next t) (hf : t.fault = none)
    (hresp : t.responses = s.responses ++ [⟨k, d⟩]) :
    loadByte va s = if k = .illegalVirtual then .next t else exec (.fetchb d) t := by
  simp [loadByte, h, hf, State.lastResponse, hresp]

/-- Settles O56: a legal translation answers an address in range, which the fetch takes; one out of range ends the load; and
the sentinel is out of range. -/
theorem loadByteCompletes : Obligations.LoadByteCompletes := by
  refine fun s va hs => ⟨fun hva => ?_, fun hva => ?_, (fetchbRange s sentinel hs).1 (by decide)⟩
  · have hready := hs.translate va
    have hxlate := exec_xlate_ready hs va
    obtain ⟨k, d, hresp, hk, hd⟩ := s.translate_responses_of_legal hva
    obtain ⟨k', word, hresp', -⟩ := (s.translate va).fetchByte_answer hd
    have hfetchb := exec_fetchb_ready hready d
    refine ⟨_, k, d, _, k', byteOf word (offOf d), hxlate, hresp, hd, hfetchb, ?_, (hready.fetchByte hd).2, ?_⟩
    · rw [loadByte_eq_of_response hxlate hready.2 hresp, if_neg hk, hfetchb]
    · rw [hresp', hresp, List.append_assoc]
      rfl
  · have hxlate := exec_xlate_ready hs va
    rw [State.translate_eq_illegalVa hva] at hxlate
    refine ⟨s.illegalVa va, ?_, hs.2, rfl⟩
    rw [loadByte_eq_of_response hxlate hs.2 rfl, if_pos rfl]

end Sys2Proof.Machine
end

section
/-! The bytes a fetch answers: memory's byte through a cold line (spec/20_memory.md R55, R56, spec/42_cache.md R135), and the
same byte again while the line is not fetched in (R68). -/

namespace Sys2Proof.Machine

variable {s t u : State} {is : List Instr} {l : LineIndex} {pa : Word32}

/-! ### Memory's byte (R55, R56) -/

/-- Byte `k` of memory's word at `a` is memory's byte at `a + k`. -/
theorem byteOf_wordAt (mem : Word32 → Byte) (a : Word32) (k : ByteOffset) :
    byteOf (wordAt mem a) k = mem (a + k.setWidth 32) := by
  have hk : k = 0 ∨ k = 1 ∨ k = 2 ∨ k = 3 := by
    revert k
    decide
  rw [byteOf, wordAt]
  obtain rfl | rfl | rfl | rfl := hk
  · rw [show a + (0 : ByteOffset).setWidth 32 = a by simp]
    exact BitVec.extractLsb'_append_eq_right
  · rw [BitVec.extractLsb'_append_eq_of_le (by decide)]
    exact BitVec.extractLsb'_append_eq_right
  · rw [BitVec.extractLsb'_append_eq_of_le (by decide), BitVec.extractLsb'_append_eq_of_le (by decide)]
    exact BitVec.extractLsb'_append_eq_right
  · rw [BitVec.extractLsb'_append_eq_of_le (by decide), BitVec.extractLsb'_append_eq_of_le (by decide)]
    exact BitVec.extractLsb'_append_eq_left

/-- A byte address is its aligned word's address plus its offset in the word. -/
theorem alignedWord_add_offOf (pa : Word32) : alignedWord pa + (offOf pa).setWidth 32 = pa := by
  apply BitVec.eq_of_toNat_eq
  have hpa := pa.isLt
  rw [BitVec.toNat_add, BitVec.toNat_setWidth_of_le (by decide), alignedWord_toNat, offOf_toNat]
  omega

theorem AnswersFrom.byteOf_wordAnswer {mem : Word32 → Byte} (h : AnswersFrom mem s pa) :
    byteOf (s.wordAnswer pa) (offOf pa) = mem pa := by
  rw [AnswersFrom] at h
  rw [h, byteOf_wordAt, alignedWord_add_offOf]

/-- Settles O41: no way of the line holds the tag, so the fetch answers the byte of the fetcher's word, which is memory's. -/
theorem coldFetchReturnsMemory : Obligations.ColdFetchReturnsMemory := by
  intro mem s pa hs hpa hcold hmem
  rw [exec_fetchb_ready hs, State.fetchByte_eq_cacheMiss hpa (Line.lookup_eq_none_iff_forall_tag_ne.2 hcold),
    ← hmem.byteOf_wordAnswer]
  exact ⟨_, rfl, rfl⟩

/-! ### A cached byte (R68) -/

/-- Commands other than INIT, with no fetch in a line, keep the line; and queries are still taken. -/
theorem execAll_keeps_lineAt (hinit : Instr.init ∉ is) (hno : ∀ q, Instr.fetchb q ∈ is → lineOf q ≠ l)
    (htu : execAll is t = .next u) (ht : t.init = true) : u.init = true ∧ u.lineAt l = t.lineAt l := by
  refine execAll_keeps (P := fun a => a.init = true ∧ a.lineAt l = t.lineAt l) (fun i hi a b hab ha => ?_) htu ⟨ht, rfl⟩
  obtain ⟨hainit, hline⟩ := ha
  obtain ⟨-, ⟨hbefore, -, -⟩ | ⟨rfl, -⟩ | ⟨-, va, rfl, rfl⟩ | ⟨-, q, rfl, rfl⟩⟩ := exec_cases a hab
  · cases hainit.symm.trans hbefore
  · exact absurd hi hinit
  · exact ⟨(a.translate_init va).trans hainit, (a.translate_lineAt va l).trans hline⟩
  · exact ⟨(a.fetchByte_init q).trans hainit, (a.fetchByte_lineAt_of_ne (hno q hi).symm).trans hline⟩

/-- Settles O42: the first fetch leaves its word in the line, where the lookup finds it; the commands in between keep the line,
so the second fetch hits on that word. -/
theorem cachedByteIsKept : Obligations.CachedByteIsKept := by
  intro s t u is pa hs hpa hst hinit hno htu hu
  rw [exec_fetchb_ready hs] at hst
  obtain rfl := Host.Outcome.next.inj hst
  obtain ⟨k, word, hresp, ⟨w, hw, hword⟩, -⟩ := s.fetchByte_answer hpa
  obtain ⟨huinit, hline⟩ := execAll_keeps_lineAt hinit hno htu (hs.fetchByte hpa).1
  rw [← hline] at hw hword
  have hhit := State.fetchByte_eq_fetched hpa hw
  rw [hword] at hhit
  exact ⟨_, k, _, exec_fetchb_ready ⟨huinit, hu⟩ pa, hresp, by rw [hhit]; rfl, by rw [hhit]; rfl⟩

end Sys2Proof.Machine
end

section
/-! What every step keeps of the histories (spec/10_state.md): valid entries hold recorded answers of the collaborators (R25,
spec/42_cache.md R135), the log is what the logger was sent (R33, spec/30_encoding.md R87, R90); and the invariants at the
start of a run. -/

namespace Sys2Proof.Machine

variable {s t : State} {i : Instr} {cs : List ExternalCall}

/-! ### Page-table entries and the allocator's answers (R25) -/

theorem State.PtFromAllocator.of_ptStep (h : s.PtFromAllocator) (hcalls : t.calls = s.calls ++ cs)
    (hst : PtStep s t cs) : t.PtFromAllocator := by
  intro v hv
  rw [hcalls]
  obtain ⟨hpt, -⟩ | ⟨u, p, e, -, hpt, rfl⟩ := hst <;> rw [State.ptAt_eq_of_pt_eq hpt] at hv ⊢
  · exact List.mem_append_left _ (h v hv)
  · rw [State.ptAt_setPt] at hv ⊢
    split_ifs at hv ⊢ with huv
    · subst huv
      exact List.mem_append_right _ List.mem_cons_self
    · exact List.mem_append_left _ (h v hv)

theorem State.PtFromAllocator.of_cleared (h : ∀ v, s.ptAt v = .cleared) : s.PtFromAllocator := by
  intro v hv
  rw [h] at hv
  cases hv

theorem step_keeps_ptFromAllocator (h : step s = .next t) (hs : s.PtFromAllocator) : t.PtFromAllocator := by
  refine step_keeps_of_bodies (P := State.PtFromAllocator) (fun _ _ _ => id)
    (fun _ _ hab => .of_cleared (exec_init_ptAt hab)) (fun a va ha => ?_) (fun a pa ha => ?_) h hs
  · obtain ⟨_, hcalls, hst⟩ := a.translate_ptStep va
    exact ha.of_ptStep hcalls hst
  · obtain ⟨_, hcalls, hst⟩ := a.fetchByte_ptStep pa
    exact ha.of_ptStep hcalls hst

/-! ### Ways and the fetcher's words (R135) -/

/-- A line for which recorded fetches account: each valid way holds a word answered for an address of its line and tag. -/
def Line.FetchedAt (x : Line) (l : LineIndex) (cs : List ExternalCall) : Prop :=
  ∀ w, (x.way w).valid = true → ∃ pa, paInRange pa = true ∧ lineOf pa = l ∧ ctagOf pa = (x.way w).tag ∧
    ExternalCall.memRead pa (x.way w).data ∈ cs

theorem State.cacheFromFetcher_iff : s.CacheFromFetcher ↔ ∀ l, (s.lineAt l).FetchedAt l s.calls := .rfl

/-- Later calls do not take an answer back. -/
theorem Line.FetchedAt.append {x : Line} {l : LineIndex} (h : x.FetchedAt l cs) (ds : List ExternalCall) :
    x.FetchedAt l (cs ++ ds) := by
  intro w hw
  obtain ⟨pa, hpa, hl, htag, hmem⟩ := h w hw
  exact ⟨pa, hpa, hl, htag, List.mem_append_left _ hmem⟩

/-- The victim way gets the word of the call, and the other way keeps its own. -/
theorem Line.FetchedAt.install {x : Line} {pa word : Word32} (h : x.FetchedAt (lineOf pa) cs)
    (hpa : paInRange pa = true) (hmem : ExternalCall.memRead pa word ∈ cs) :
    (x.install (ctagOf pa) word).FetchedAt (lineOf pa) cs := by
  intro w hw
  rw [Line.install_way] at hw ⊢
  split_ifs at hw ⊢
  · exact ⟨pa, hpa, rfl, rfl, hmem⟩
  · exact h w hw

theorem Line.cleared_fetchedAt (l : LineIndex) (cs : List ExternalCall) : Line.cleared.FetchedAt l cs := by
  intro w hw
  rw [Line.cleared_way_valid] at hw
  cases hw

theorem State.CacheFromFetcher.translate (h : s.CacheFromFetcher) (va : Word32) : (s.translate va).CacheFromFetcher := by
  obtain ⟨cs, hcalls, -⟩ := s.translate_ptStep va
  rw [State.cacheFromFetcher_iff, hcalls]
  intro l
  rw [State.translate_lineAt]
  exact Line.FetchedAt.append (h l) cs

theorem State.CacheFromFetcher.fetchByte (h : s.CacheFromFetcher) (pa : Word32) : (s.fetchByte pa).CacheFromFetcher := by
  obtain ⟨-, heq⟩ | ⟨-, w, -, heq⟩ | ⟨hpa, -, heq⟩ := s.fetchByte_cases pa <;> rw [heq]
  · rw [State.raise_eq]
    exact h
  · exact fun l => Line.FetchedAt.append (h l) _
  · rw [State.cacheFromFetcher_iff, State.cacheMiss_calls]
    intro l
    rw [State.cacheMiss_lineAt]
    split_ifs with hl
    · subst hl
      exact (Line.FetchedAt.append (h (lineOf pa)) _).install hpa (List.mem_append_right _ List.mem_cons_self)
    · exact Line.FetchedAt.append (h l) _

theorem step_keeps_cacheFromFetcher (h : step s = .next t) (hs : s.CacheFromFetcher) : t.CacheFromFetcher := by
  refine step_keeps_of_bodies (P := State.CacheFromFetcher) (fun _ _ _ => id) (fun a b hab => ?_)
    (fun _ va ha => ha.translate va) (fun _ pa ha => ha.fetchByte pa) h hs
  rw [State.cacheFromFetcher_iff]
  intro l
  rw [exec_init_lineAt hab]
  exact Line.cleared_fetchedAt l _

/-- Settles O49: INIT leaves no valid entry; each other command writes at most one, with the answer of a call it records, and
no call is taken off the record. -/
theorem stepKeepsTablesFetched : Obligations.StepKeepsTablesFetched :=
  fun _ _ hpt hcache h => ⟨step_keeps_ptFromAllocator h hpt, step_keeps_cacheFromFetcher h hcache⟩

/-! ### The log and the logger's calls (R33, R87, R90) -/

/-- From `s` to `t` calls are appended to the record and their events to the log, none of them `INIT_DONE`. -/
def LogsItsCalls (s t : State) : Prop :=
  ∃ cs, t.calls = s.calls ++ cs ∧ t.log = s.log ++ cs.filterMap ExternalCall.event? ∧
    ∀ e ∈ cs.filterMap ExternalCall.event?, e.kind.isEventKind = true

theorem LogsItsCalls.of_none (hcalls : t.calls = s.calls) (hlog : t.log = s.log) : LogsItsCalls s t :=
  ⟨[], hcalls.trans (List.append_nil _).symm, hlog.trans (List.append_nil _).symm, by simp⟩

/-- One event, logged last, after calls of the other collaborators. -/
theorem LogsItsCalls.of_event {e : Event} (hcalls : t.calls = s.calls ++ (cs ++ [.logEntry e]))
    (hlog : t.log = s.log ++ [e]) (hcs : cs.filterMap ExternalCall.event? = []) (he : e.kind.isEventKind = true) :
    LogsItsCalls s t := by
  have hevents : (cs ++ [ExternalCall.logEntry e]).filterMap ExternalCall.event? = [e] := by
    rw [List.filterMap_append, hcs]
    rfl
  refine ⟨_, hcalls, by rw [hevents, hlog], ?_⟩
  rw [hevents]
  exact fun d hd => List.mem_singleton.1 hd ▸ he

theorem State.translate_logsItsCalls (s : State) (va : Word32) : LogsItsCalls s (s.translate va) := by
  obtain ⟨-, h⟩ | ⟨-, p, -, h⟩ | ⟨-, -, p, -, h⟩ | ⟨-, -, -, h⟩ := s.translate_cases va <;> rw [h]
  · exact .of_event (cs := []) rfl rfl rfl rfl
  · exact .of_event (cs := []) rfl rfl rfl rfl
  · exact .of_event (cs := []) rfl rfl rfl rfl
  · exact .of_event (cs := [.allocFrame _ _]) (s.pageFault_calls va) rfl rfl rfl

theorem State.fetchByte_logsItsCalls (s : State) (pa : Word32) : LogsItsCalls s (s.fetchByte pa) := by
  obtain ⟨-, h⟩ | ⟨-, w, -, h⟩ | ⟨-, -, h⟩ := s.fetchByte_cases pa <;> rw [h]
  · rw [State.raise_eq]
    exact .of_none rfl rfl
  · exact .of_event (cs := []) rfl rfl rfl rfl
  · exact .of_event (cs := [.memRead _ _]) (s.cacheMiss_calls pa) rfl rfl rfl

theorem exec_logsItsCalls (h : exec i s = .next t) : LogsItsCalls s t := by
  obtain ⟨-, ⟨-, -, rfl⟩ | ⟨-, rfl⟩ | ⟨-, va, -, rfl⟩ | ⟨-, pa, -, rfl⟩⟩ := exec_cases s h
  · exact .of_none rfl rfl
  · exact .of_none rfl rfl
  · exact s.translate_logsItsCalls va
  · exact s.fetchByte_logsItsCalls pa

theorem step_logsItsCalls (h : step s = .next t) : LogsItsCalls s t := by
  obtain ⟨-, ⟨-, rfl⟩ | ⟨w, ws, -, ⟨i, -, he⟩ | ⟨-, -, rfl⟩⟩⟩ := step_cases s h
  · exact .of_none rfl rfl
  · exact exec_logsItsCalls (s := { s with commands := ws }) he
  · exact .of_none rfl rfl

theorem State.LogSound.of_logsItsCalls (h : s.LogSound) (hst : LogsItsCalls s t) : t.LogSound := by
  obtain ⟨heq, hkinds⟩ := h
  obtain ⟨cs, hcalls, hlog, hnew⟩ := hst
  refine ⟨by rw [hcalls, hlog, List.filterMap_append, heq], fun e he => ?_⟩
  rw [hlog] at he
  obtain hold | hadded := List.mem_append.1 he
  · exact hkinds e hold
  · exact hnew e hadded

/-- Settles O50: a step appends to the log the events of the calls it appends to the record. -/
theorem stepKeepsLogSound : Obligations.StepKeepsLogSound := by
  intro s t hs h
  obtain ⟨cs, hcalls, hlog, hnew⟩ := step_logsItsCalls h
  exact ⟨hs.of_logsItsCalls ⟨cs, hcalls, hlog, hnew⟩, hlog ▸ List.prefix_append s.log _⟩

/-! ### The start state (log entry 1) -/

theorem reset_tlbAt (j : TlbIndex) : State.reset.tlbAt j = .cleared := State.reset.clearTables_tlbAt j

theorem reset_ptAt (v : Vpn) : State.reset.ptAt v = .cleared := State.reset.clearTables_ptAt v

theorem reset_lineAt (l : LineIndex) : State.reset.lineAt l = .cleared := State.reset.clearTables_lineAt l

/-- Settles O51: no entry is valid, every line is (0,0,0), and no call is recorded. -/
theorem soundAtReset : Obligations.SoundAtReset := by
  refine ⟨fun j hj => ?_, fun l h0 => ?_, fun l => ?_, .of_cleared reset_ptAt, fun l => ?_, rfl, nofun⟩
  · rw [reset_tlbAt] at hj
    cases hj
  · rw [reset_lineAt] at h0
    cases h0
  · rw [reset_lineAt]
    exact .inl rfl
  · rw [reset_lineAt]
    exact Line.cleared_fetchedAt l _

end Sys2Proof.Machine
end

section
/-! Fields no command can read (spec/10_state.md R23, R29, R40, R41): states that differ only there step to states that differ
only there. -/

namespace Sys2Proof.Machine

variable {s t : State} {a b : Way} {x y : Line}

/-! ### Entries, ways and lines that cannot be told apart (R23, R29, R40) -/

theorem TlbEntry.Same.refl (e : TlbEntry) : e.Same e := ⟨rfl, fun _ => rfl⟩

theorem PtEntry.Same.refl (e : PtEntry) : e.Same e := ⟨rfl, fun _ => rfl⟩

theorem Way.Same.refl (a : Way) : a.Same a := ⟨rfl, fun _ => rfl⟩

theorem Line.Same.refl (x : Line) : x.Same x := ⟨.refl _, .refl _, fun _ _ => rfl⟩

theorem Way.Same.hits (h : a.Same b) (g : CacheTag) : a.hits g = b.hits g := by
  obtain ⟨hvalid, heq⟩ := h
  cases ha : a.valid with
  | true => rw [heq ha]
  | false => simp [Way.hits, ← hvalid, ha]

theorem Line.Same.way (h : x.Same y) (w : WayNo) : (x.way w).Same (y.way w) := by
  obtain ⟨h0, h1, -⟩ := h
  obtain rfl | rfl := WayNo.zero_or_one w
  · exact h0
  · exact h1

theorem Line.Same.lookup (h : x.Same y) (g : CacheTag) : x.lookup g = y.lookup g := by
  obtain ⟨h0, h1, -⟩ := h
  rw [Line.lookup, Line.lookup, h0.hits, h1.hits]

/-- `older` is read only in a full line. -/
theorem Line.Same.victim (h : x.Same y) : x.victim = y.victim := by
  obtain ⟨⟨hv0, -⟩, ⟨hv1, -⟩, holder⟩ := h
  cases h0 : x.way0.valid with
  | false => rw [Line.victim_of_way0_invalid h0, Line.victim_of_way0_invalid (hv0 ▸ h0)]
  | true =>
    cases h1 : x.way1.valid with
    | false => rw [Line.victim_of_way1_invalid h0 h1, Line.victim_of_way1_invalid (hv0 ▸ h0) (hv1 ▸ h1)]
    | true => rw [Line.victim_of_full h0 h1, Line.victim_of_full (hv0 ▸ h0) (hv1 ▸ h1), holder h0 h1]

theorem Line.Same.install (h : x.Same y) (g : CacheTag) (d : Word32) : (x.install g d).Same (y.install g d) := by
  have hvictim := h.victim
  obtain ⟨h0, h1, -⟩ := h
  obtain hv | hv := WayNo.zero_or_one x.victim
  · rw [Line.install_of_victim_zero hv, Line.install_of_victim_zero (hvictim ▸ hv)]
    exact ⟨.refl _, h1, fun _ _ => rfl⟩
  · rw [Line.install_of_victim_one hv, Line.install_of_victim_one (hvictim ▸ hv)]
    exact ⟨h0, .refl _, fun _ _ => rfl⟩

/-! ### States that cannot be told apart, operation by operation -/

/-- The three tables of two states cannot be told apart. -/
def State.SameTables (s t : State) : Prop :=
  (∀ i, (s.tlbAt i).Same (t.tlbAt i)) ∧ (∀ v, (s.ptAt v).Same (t.ptAt v)) ∧ ∀ l, (s.lineAt l).Same (t.lineAt l)

theorem State.SameTables.refl (s : State) : s.SameTables s := ⟨fun _ => .refl _, fun _ => .refl _, fun _ => .refl _⟩

/-- Every field outside the tables is equal, and after INIT the tables cannot be told apart. -/
theorem State.same_iff :
    s.Same t ↔ (∃ a b c, t = { s with tlb := a, pt := b, cache := c }) ∧ (s.init = true → s.SameTables t) := by
  constructor
  · rintro ⟨hinit, hfault, hlog, hcommands, hframes, hwords, hresponses, hcalls, htables⟩
    refine ⟨⟨t.tlb, t.pt, t.cache, ?_⟩, htables⟩
    rw [hinit, hfault, hlog, hcommands, hframes, hwords, hresponses, hcalls]
  · rintro ⟨⟨a, b, c, rfl⟩, htables⟩
    exact ⟨rfl, rfl, rfl, rfl, rfl, rfl, rfl, rfl, htables⟩

namespace State.Same

variable (h : s.Same t)

theorem refl (s : State) : s.Same s := State.same_iff.2 ⟨⟨_, _, _, rfl⟩, fun _ => .refl s⟩

include h

theorem tables (hinit : s.init = true) : s.SameTables t := (State.same_iff.1 h).2 hinit

theorem init_eq : t.init = s.init := by
  obtain ⟨⟨_, _, _, rfl⟩, -⟩ := State.same_iff.1 h
  rfl

theorem fault_eq : t.fault = s.fault := by
  obtain ⟨⟨_, _, _, rfl⟩, -⟩ := State.same_iff.1 h
  rfl

theorem commands_eq : t.commands = s.commands := by
  obtain ⟨⟨_, _, _, rfl⟩, -⟩ := State.same_iff.1 h
  rfl

theorem frameAnswer_eq (v : Vpn) : t.frameAnswer v = s.frameAnswer v := by
  obtain ⟨⟨_, _, _, rfl⟩, -⟩ := State.same_iff.1 h
  rfl

theorem wordAnswer_eq (pa : Word32) : t.wordAnswer pa = s.wordAnswer pa := by
  obtain ⟨⟨_, _, _, rfl⟩, -⟩ := State.same_iff.1 h
  rfl

/-- An update that neither reads nor writes the tables, and keeps `init`. -/
theorem update (f : State → State)
    (hf : ∀ a b c, f { s with tlb := a, pt := b, cache := c } = { f s with tlb := a, pt := b, cache := c })
    (hinit : (f s).init = s.init) : (f s).Same (f t) := by
  obtain ⟨⟨a, b, c, rfl⟩, htables⟩ := State.same_iff.1 h
  refine State.same_iff.2 ⟨⟨a, b, c, hf a b c⟩, fun hi => ?_⟩
  have hself : f s = { f s with tlb := s.tlb, pt := s.pt, cache := s.cache } := hf s.tlb s.pt s.cache
  rw [hf a b c, hself]
  exact htables (hinit.symm.trans hi)

theorem setTlb (i : TlbIndex) (e : TlbEntry) : (s.setTlb i e).Same (t.setTlb i e) := by
  obtain ⟨⟨a, b, c, rfl⟩, htables⟩ := State.same_iff.1 h
  refine State.same_iff.2 ⟨⟨_, _, _, rfl⟩, fun hi => ?_⟩
  obtain ⟨htlb, hpt, hcache⟩ := htables hi
  refine ⟨fun j => ?_, hpt, hcache⟩
  rw [State.tlbAt_setTlb, State.tlbAt_setTlb]
  split_ifs
  · exact .refl e
  · exact htlb j

theorem setPt (v : Vpn) (e : PtEntry) : (s.setPt v e).Same (t.setPt v e) := by
  obtain ⟨⟨a, b, c, rfl⟩, htables⟩ := State.same_iff.1 h
  refine State.same_iff.2 ⟨⟨_, _, _, rfl⟩, fun hi => ?_⟩
  obtain ⟨htlb, hpt, hcache⟩ := htables hi
  refine ⟨htlb, fun u => ?_, hcache⟩
  rw [State.ptAt_setPt, State.ptAt_setPt]
  split_ifs
  · exact .refl e
  · exact hpt u

theorem setLine (l : LineIndex) (hxy : x.Same y) : (s.setLine l x).Same (t.setLine l y) := by
  obtain ⟨⟨a, b, c, rfl⟩, htables⟩ := State.same_iff.1 h
  refine State.same_iff.2 ⟨⟨_, _, _, rfl⟩, fun hi => ?_⟩
  obtain ⟨htlb, hpt, hcache⟩ := htables hi
  refine ⟨htlb, hpt, fun m => ?_⟩
  rw [State.lineAt_setLine, State.lineAt_setLine]
  split_ifs
  · exact hxy
  · exact hcache m

theorem translated (k : Kind) (p : Ppn) (va : Word32) : (s.translated k p va).Same (t.translated k p va) :=
  h.update (fun a => a.translated k p va) (fun _ _ _ => rfl) rfl

theorem fetched (k : Kind) (word pa : Word32) : (s.fetched k word pa).Same (t.fetched k word pa) :=
  h.update (fun a => a.fetched k word pa) (fun _ _ _ => rfl) rfl

theorem raise (f : Fault) : (s.raise f).Same (t.raise f) :=
  h.update (fun a => a.raise f) (fun _ _ _ => by rw [State.raise_eq, State.raise_eq]) (by rw [State.raise_eq])

end State.Same

/-! ### The bodies of XLATE and FETCHB -/

theorem State.SameTables.tlbLookup (h : s.SameTables t) (v : Vpn) : s.tlbLookup v = t.tlbLookup v := by
  obtain ⟨htlb, -, -⟩ := h
  obtain ⟨hvalid, heq⟩ := htlb (tlbIndexOf v)
  cases hs : (s.tlbAt (tlbIndexOf v)).valid with
  | true => rw [State.tlbLookup, State.tlbLookup, heq hs]
  | false => simp [State.tlbLookup, ← hvalid, hs]

theorem State.SameTables.ptLookup (h : s.SameTables t) (v : Vpn) : s.ptLookup v = t.ptLookup v := by
  obtain ⟨-, hpt, -⟩ := h
  obtain ⟨hvalid, heq⟩ := hpt v
  cases hs : (s.ptAt v).valid with
  | true => rw [State.ptLookup, State.ptLookup, heq hs]
  | false => simp [State.ptLookup, ← hvalid, hs]

/-- After INIT both translations take the same path, with the same frame. -/
theorem State.Same.translate (h : s.Same t) (hinit : s.init = true) (va : Word32) :
    (s.translate va).Same (t.translate va) := by
  have htlb := (h.tables hinit).tlbLookup (vpnOf va)
  have hpt := (h.tables hinit).ptLookup (vpnOf va)
  obtain ⟨hva, hs⟩ | ⟨hva, p, hp, hs⟩ | ⟨hva, hmiss, p, hp, hs⟩ | ⟨hva, hmiss, hno, hs⟩ := s.translate_cases va <;>
    rw [hs]
  · rw [State.translate_eq_illegalVa hva]
    exact h.update (fun a => a.illegalVa va) (fun _ _ _ => rfl) rfl
  · rw [State.translate_eq_translated hva (htlb ▸ hp)]
    exact h.translated _ p va
  · rw [State.translate_eq_ptHit hva (htlb ▸ hmiss) (hpt ▸ hp)]
    exact (h.setTlb _ _).translated _ p va
  · rw [State.translate_eq_pageFault hva (htlb ▸ hmiss) (hpt ▸ hno), State.pageFault, State.pageFault, h.frameAnswer_eq]
    have htaken := h.update (fun a => a.takeFrame (vpnOf va)) (fun _ _ _ => rfl) rfl
    exact ((htaken.setPt _ _).setTlb _ _).translated _ _ va

/-- After INIT both fetches take the same path; a way that hits is valid, so it holds the same word. -/
theorem State.Same.fetchByte (h : s.Same t) (hinit : s.init = true) (pa : Word32) :
    (s.fetchByte pa).Same (t.fetchByte pa) := by
  obtain ⟨-, -, hlines⟩ := h.tables hinit
  have hline := hlines (lineOf pa)
  have hlookup := hline.lookup (ctagOf pa)
  obtain ⟨hpa, hs⟩ | ⟨hpa, w, hw, hs⟩ | ⟨hpa, hmiss, hs⟩ := s.fetchByte_cases pa <;> rw [hs]
  · rw [State.fetchByte_eq_raise hpa]
    exact h.raise _
  · obtain ⟨hvalid, -, -⟩ := Line.lookup_eq_some_iff_valid_tag.1 hw
    obtain ⟨-, hway⟩ := hline.way w
    rw [State.fetchByte_eq_fetched hpa (hlookup ▸ hw), ← hway hvalid]
    exact h.fetched _ _ pa
  · rw [State.fetchByte_eq_cacheMiss hpa (hlookup ▸ hmiss), State.cacheMiss, State.cacheMiss, h.wordAnswer_eq]
    have htaken := h.update (fun a => a.takeWord pa) (fun _ _ _ => rfl) rfl
    exact (htaken.setLine _ (hline.install _ _)).fetched _ _ pa

/-! ### Commands and steps -/

theorem takeCommand_sameOutcome (h : s.Same t) {body : State → State} (hbody : (body s).Same (body t)) :
    SameOutcome (takeCommand s body) (takeCommand t body) := by
  cases hf : s.fault with
  | some f =>
    rw [(takeCommand_eq_fault s).2 hf, (takeCommand_eq_fault t).2 (h.fault_eq.trans hf)]
    rfl
  | none =>
    rw [takeCommand_running s hf, takeCommand_running t (h.fault_eq.trans hf)]
    exact hbody

theorem takeQuery_sameOutcome (h : s.Same t) (cmd : CmdWord) {body : State → State}
    (hbody : s.init = true → (body s).Same (body t)) : SameOutcome (takeQuery cmd s body) (takeQuery cmd t body) := by
  refine takeCommand_sameOutcome h ?_
  rw [h.init_eq]
  split_ifs with hi
  · exact hbody hi
  · exact h.raise _

/-- INIT reads no table: it leaves both states with the same ones. -/
theorem exec_sameOutcome (h : s.Same t) (i : Instr) : SameOutcome (exec i s) (exec i t) := by
  cases i with
  | init =>
    refine takeCommand_sameOutcome h (body := fun a => ({ a.clearTables with init := true }).respond .initDone 0) ?_
    obtain ⟨⟨_, _, _, rfl⟩, -⟩ := State.same_iff.1 h
    exact .refl _
  | xlate va => exact takeQuery_sameOutcome h (encode (.xlate va)) (body := (·.translate va)) fun hi => h.translate hi va
  | fetchb pa => exact takeQuery_sameOutcome h (encode (.fetchb pa)) (body := (·.fetchByte pa)) fun hi => h.fetchByte hi pa

/-- Settles O44: both steps find the same fault and the same word; before INIT a query raises the same fault, and after it no
lookup and no victim depends on a field that differs. -/
theorem unobservableFieldsStaySo : Obligations.UnobservableFieldsStaySo := by
  intro s t h
  cases hf : s.fault with
  | some f =>
    rw [step_eq_fault.2 hf, step_eq_fault.2 (h.fault_eq.trans hf)]
    rfl
  | none =>
    have hf' := h.fault_eq.trans hf
    cases hc : s.commands with
    | nil =>
      rw [step_of_commands_eq_nil hf hc, step_of_commands_eq_nil hf' (h.commands_eq.trans hc)]
      exact h
    | cons w ws =>
      have hc' := h.commands_eq.trans hc
      cases hd : decode w with
      | instr i =>
        rw [step_of_decode_instr hf hc hd, step_of_decode_instr hf' hc' hd]
        exact exec_sameOutcome (h.update (fun a => { a with commands := ws }) (fun _ _ _ => rfl) rfl) i
      | illegal why =>
        rw [step_of_decode_illegal hf hc hd, step_of_decode_illegal hf' hc' hd]
        exact h.update (fun a => { a with commands := ws, fault := some (.illegalCommand w) }) (fun _ _ _ => rfl) rfl

/-- Settles O45: INIT has not run at the start, so no table counts. -/
theorem resetTablesAreUnobservable : Obligations.ResetTablesAreUnobservable :=
  fun a b c => State.same_iff.2 ⟨⟨a, b, c, rfl⟩, nofun⟩

end Sys2Proof.Machine
end
